-- ==== Sys2Proof/Word.lean ====
section
/-! DEFINITION. The word types of the block: bus data, memory bytes, PCM samples. -/

namespace Sys2Proof

/-- A register, and the data word of a bus transaction: 32 bits (R6, R21). -/
abbrev Word := BitVec 32

/-- One element of MBYTE or DBYTE (R54). -/
abbrev Byte := BitVec 8

/-- One element of MPCM or DPCM: the 16-bit two's complement pattern of a PCM sample (R72). -/
abbrev Pcm := BitVec 16

/-- A symbol code, format SYM: bit 1 is the earlier payload bit (R109). -/
abbrev SymbolCode := BitVec 2

end Sys2Proof
end

