-- ==== Sys2Proof/Config.lean ====
section
/-! DEFINITION. What an implementation of the block chooses (00_scope.md R6), and the free values the
spec leaves unspecified. The capacities and the choice of rounding are plain data; the numeric
profile, the unspecified memory cells and the order of agents are constants without a body. -/

namespace Sys2Proof

/-- The quantiser's rounding, the OPEN parameter Q_ROUND (D10): truncation toward zero is the spec's
default, `other` stands for every other rounding the spec admits (93_implementation_defined.md part 3). -/
inductive QRound where
  | trunc
  | other
deriving DecidableEq, Repr

/-- The parameters that are plain data: the four capacities in elements (D17) and Q_ROUND (D10).
No step writes them. -/
structure Config where
  capMbyte : Nat
  capMpcm : Nat
  capDpcm : Nat
  capDbyte : Nat
  qRound : QRound
deriving DecidableEq, Repr

/-- The spec's default of every plain parameter (R6). -/
def Config.default : Config where
  capMbyte := 65536
  capMpcm := 1048576
  capDpcm := 1048576
  capDbyte := 65536
  qRound := .trunc

/-- The range of the parameters: every capacity between 1 and 2^20 (R6). -/
abbrev Config.wf (c : Config) : Prop :=
  (1 ≤ c.capMbyte ∧ c.capMbyte ≤ 2 ^ 20) ∧ (1 ≤ c.capMpcm ∧ c.capMpcm ≤ 2 ^ 20) ∧
  (1 ≤ c.capDpcm ∧ c.capDpcm ≤ 2 ^ 20) ∧ (1 ≤ c.capDbyte ∧ c.capDbyte ≤ 2 ^ 20)

/-- The functions a numeric profile supplies over its ordered field `K` (R8): `SIN1` and `COS1` on
rational arguments, in turns; and the rounding that stands for `QRound.other`. -/
structure Numeric (K : Type) where
  sin1 : ℚ → K
  cos1 : ℚ → K
  roundOther : K → ℤ

/-- What the spec uses of every profile (log entry 3, DEDUCED): a segment's first sample is `SIN1(0) = 0` (R141), a
carrier starts at `COS1(0) = 1` (R144); a Hamming window has its centre at 1 and is symmetric (R143), so `COS1`
is -1 at half a turn and takes mirrored values on a turn. A rounding of Q_ROUND stays in [-32767, 32767] and fixes integers
(93_implementation_defined.md part 3). -/
structure Numeric.Lawful {K : Type} [Field K] [LinearOrder K] (T : Numeric K) : Prop where
  sin1_zero : T.sin1 0 = 0
  cos1_zero : T.cos1 0 = 1
  cos1_half : T.cos1 (1 / 2) = -1
  cos1_mirror : ∀ q : ℚ, 0 ≤ q → q ≤ 1 → T.cos1 (1 - q) = T.cos1 q
  round_range : ∀ v : K, -32767 ≤ v → v ≤ 32767 →
    -32767 ≤ T.roundOther v ∧ T.roundOther v ≤ 32767
  round_int : ∀ n : ℤ, -32767 ≤ n → n ≤ 32767 → T.roundOther (n : K) = n

/-- A numeric profile, the OPEN parameter NUM (R8, D7): an ordered field with a floor (so that `trunc`
is total) and its functions. -/
structure NumProfile where
  Num : Type
  field : Field Num
  order : LinearOrder Num
  ordered : IsStrictOrderedRing Num
  floor : FloorRing Num
  numeric : Numeric Num
  lawful : numeric.Lawful

/-- Toward zero, on the rationals (only to show that a profile exists). -/
def Config.ratTrunc (v : ℚ) : ℤ := if 0 ≤ v then ⌊v⌋ else ⌈v⌉

/-- Truncation of a value of the 16-bit range stays in the range. -/
theorem Config.ratTrunc_range (v : ℚ) (h1 : -32767 ≤ v) (h2 : v ≤ 32767) :
    -32767 ≤ Config.ratTrunc v ∧ Config.ratTrunc v ≤ 32767 := by
  unfold Config.ratTrunc
  split
  · have h0 : 0 ≤ ⌊v⌋ := Int.floor_nonneg.2 ‹_›
    have h3 : ⌊v⌋ ≤ ⌊(32767 : ℚ)⌋ := Int.floor_le_floor h2
    rw [show ⌊(32767 : ℚ)⌋ = 32767 from Int.floor_intCast 32767] at h3
    exact ⟨by omega, h3⟩
  · have h0 : ⌈v⌉ ≤ 0 := Int.ceil_le.2 (by simpa using le_of_lt (not_le.1 ‹_›))
    have h3 : ⌈(-32767 : ℚ)⌉ ≤ ⌈v⌉ := Int.ceil_le_ceil h1
    rw [show ⌈(-32767 : ℚ)⌉ = -32767 from Int.ceil_intCast (-32767)] at h3
    exact ⟨h3, by omega⟩

/-- Truncation fixes integers. -/
theorem Config.ratTrunc_int (n : ℤ) : Config.ratTrunc n = n := by
  unfold Config.ratTrunc
  split <;> simp

/-- A cosine that is 1 but at half a turn, where it is -1. -/
def Config.notchCosine (q : ℚ) : ℚ := if q = 1 / 2 then -1 else 1

/-- The mirror of a turn moves neither half a turn nor what is not half a turn. -/
theorem Config.notchCosine_mirror (q : ℚ) : Config.notchCosine (1 - q) = Config.notchCosine q := by
  unfold Config.notchCosine
  exact if_congr (by constructor <;> intro h <;> linarith) rfl rfl

/-- A profile with the least of waves. It is no profile of the hardware: it shows that the type of profiles
is not empty, which a constant without a body needs. -/
def Config.notchProfile : NumProfile where
  Num := ℚ
  field := inferInstance
  order := inferInstance
  ordered := inferInstance
  floor := inferInstance
  numeric := { sin1 := fun _ => 0, cos1 := Config.notchCosine, roundOther := Config.ratTrunc }
  lawful :=
    { sin1_zero := rfl
      cos1_zero := by norm_num [Config.notchCosine]
      cos1_half := by norm_num [Config.notchCosine]
      cos1_mirror := fun q _ _ => Config.notchCosine_mirror q
      round_range := Config.ratTrunc_range
      round_int := fun n _ _ => Config.ratTrunc_int n }

/-- FREE VALUE: the numeric profile the hardware runs on (R8: NUM is OPEN, D7 fixes none). -/
opaque Config.freeNum [Inhabited NumProfile] : NumProfile

/-- The profile the machine uses: any one, nothing about it is known but what `NumProfile` states. -/
def Config.num : NumProfile := @Config.freeNum ⟨Config.notchProfile⟩

/-- FREE VALUE: the content of a cell that nothing has written since its memory last became
unspecified (R341): one arbitrary value for each memory content (numbered by `gen`) and index. -/
opaque Config.freeCell (w gen index : Nat) : BitVec w

/-- The three agents that take steps (R12). -/
inductive Agent where
  | host
  | mod
  | dem
deriving DecidableEq, Repr, Inhabited

/-- FREE VALUE: which agent moves next where the spec fixes no order (R94). -/
opaque Config.freeAgent : Nat → Agent

end Sys2Proof
end

