-- ==== Sys2Proof/Syntax.lean ====
section
/-! DEFINITION. The instructions of the block: one constructor of `Instr` for each row of
spec/opcode_table.json. Three levels execute them (30_encoding.md): bus transactions by the bus
interface, command words by the command decoder, segment descriptors by the modulator sequencer. -/

namespace Sys2Proof

/-- One constructor per row of the opcode table. -/
inductive Instr where
  /-- RD, format BUS: read the element `index` of `region` (R101, R260). -/
  | rd (region : BitVec 4) (index : BitVec 20)
  /-- WR, format BUS: write `wdata` to the element `index` of `region` (R102, R261). -/
  | wr (region : BitVec 4) (index : BitVec 20) (wdata : Word)
  /-- NOP, format CMD (R270). -/
  | nop
  /-- MOD_START, format CMD (R271). -/
  | modStart
  /-- DEM_START, format CMD (R272). -/
  | demStart
  /-- PIX_FMT, format CMD (R273). -/
  | pixFmt
  /-- SOFT_RESET, format CMD (R274). -/
  | softReset
  /-- ILLEGAL_CMD, format CMD: a word of no other command row, by its two fields (R105, R276). -/
  | illegalCmd (zero : BitVec 24) (op : BitVec 8)
  /-- SYM00, format SEG (R131). -/
  | sym00
  /-- SYM01, format SEG (R132). -/
  | sym01
  /-- SYM10, format SEG (R133). -/
  | sym10
  /-- SYM11, format SEG (R134). -/
  | sym11
  /-- MLO, format SEG: the low marker half (R162). -/
  | mlo
  /-- MHI, format SEG: the high marker half (R163). -/
  | mhi
  /-- SEG_RESERVED, format SEG: descriptors 110 and 111, by their low bit (R108, R177). -/
  | segReserved (s : BitVec 1)
deriving DecidableEq, Repr

/-- What the command decoder reads from a command word (R104, R105). -/
inductive Command where
  | nop
  | modStart
  | demStart
  | pixFmt
  | softReset
  | illegal (zero : BitVec 24) (op : BitVec 8)
deriving DecidableEq, Repr

/-- What the sequencer reads from a segment descriptor (R107, R108). -/
inductive Segment where
  | sym00
  | sym01
  | sym10
  | sym11
  | mlo
  | mhi
  | reserved (s : BitVec 1)
deriving DecidableEq, Repr

/-- A command as an instruction of the table. -/
def Command.toInstr : Command → Instr
  | .nop => .nop
  | .modStart => .modStart
  | .demStart => .demStart
  | .pixFmt => .pixFmt
  | .softReset => .softReset
  | .illegal zero op => .illegalCmd zero op

/-- A segment as an instruction of the table. -/
def Segment.toInstr : Segment → Instr
  | .sym00 => .sym00
  | .sym01 => .sym01
  | .sym10 => .sym10
  | .sym11 => .sym11
  | .mlo => .mlo
  | .mhi => .mhi
  | .reserved s => .segReserved s

end Sys2Proof
end

