-- ==== Sys2Proof/WellFormed.lean ====
section
/-! DEFINITION. Which terms of `Instr` some word of the hardware stands for. The operand widths are
in the types; the one further check is that an illegal command word is none of the five defined ones. -/

namespace Sys2Proof

/-- The opcodes of the five defined commands (R104). -/
def definedOps : List (BitVec 8) := [0x00#8, 0x01#8, 0x02#8, 0x03#8, 0x0F#8]

/-- The command word with these two fields is defined: bits 31:8 zero and a defined opcode (R103, R104). -/
def isDefinedCommand (zero : BitVec 24) (op : BitVec 8) : Bool :=
  zero == 0#24 && definedOps.contains op

/-- An instruction that some word encodes: every one, but for an `illegalCmd` that carries the
fields of a defined command (R105). -/
def Instr.wellFormed : Instr → Bool
  | .rd _ _ => true
  | .wr _ _ _ => true
  | .nop => true
  | .modStart => true
  | .demStart => true
  | .pixFmt => true
  | .softReset => true
  | .illegalCmd zero op => !isDefinedCommand zero op
  | .sym00 => true
  | .sym01 => true
  | .sym10 => true
  | .sym11 => true
  | .mlo => true
  | .mhi => true
  | .segReserved _ => true

end Sys2Proof
end

