-- ==== Sys2Proof/Decode.lean ====
section
/-! DEFINITION. The decoder and, after it, the encoder (30_encoding.md). Three formats of one fixed
length each: BUS 57 bits (R100), CMD 32 bits (R103), SEG 3 bits (R106). Which format a word has is
fixed by who executes it (30_encoding.md, table of levels), so a word carries its format. -/

namespace Sys2Proof

/-- An instruction word of one of the three formats. -/
inductive InstrWord where
  | bus (t : BitVec 57)
  | cmd (w : Word)
  | seg (d : BitVec 3)
deriving DecidableEq, Repr

/-- Why a string of bits is no instruction word. -/
inductive DecodeError where
  /-- No format has this length (R111). -/
  | noFormatOfLength (nbits : Nat)
  /-- A bit above the format's length is 1. -/
  | bitsAboveFormat (nbits : Nat)
deriving DecidableEq, Repr

/-- A bus transaction: bit 56 `rw`, bits 55:52 region, bits 51:32 index, bits 31:0 write data, which a
read does not decode (R100 to R102). -/
def decodeBus (t : BitVec 57) : Instr :=
  if t.getLsbD 56 then .wr (t.extractLsb' 52 4) (t.extractLsb' 32 20) (t.extractLsb' 0 32)
  else .rd (t.extractLsb' 52 4) (t.extractLsb' 32 20)

/-- A command word: bits 31:8 zero, bits 7:0 opcode (R103 to R105). -/
def decodeCommand (w : Word) : Command :=
  let zero := w.extractLsb' 8 24
  let op := w.extractLsb' 0 8
  if zero ≠ 0#24 then .illegal zero op
  else if op = 0x00#8 then .nop
  else if op = 0x01#8 then .modStart
  else if op = 0x02#8 then .demStart
  else if op = 0x03#8 then .pixFmt
  else if op = 0x0F#8 then .softReset
  else .illegal zero op

/-- A segment descriptor: bit 2 `mk`, bits 1:0 `sel` (R106 to R108). -/
def decodeSegment (d : BitVec 3) : Segment :=
  let sel := d.extractLsb' 0 2
  if d.getLsbD 2 then
    if sel = 0b00#2 then .mlo
    else if sel = 0b01#2 then .mhi
    else .reserved (sel.extractLsb' 0 1)
  else
    if sel = 0b00#2 then .sym00
    else if sel = 0b01#2 then .sym01
    else if sel = 0b10#2 then .sym10
    else .sym11

/-- The instruction a word stands for: total, since every word of each format has an entry (R101,
R102, R104, R105, R107, R108). -/
def decode : InstrWord → Instr
  | .bus t => decodeBus t
  | .cmd w => (decodeCommand w).toInstr
  | .seg d => (decodeSegment d).toInstr

/-- The word of `w` of the format that `nbits` selects, `nbits` being the format's length or that
length in whole bytes. -/
def wordOfBits (nbits w : Nat) : Except DecodeError InstrWord :=
  if nbits = 57 ∨ nbits = 64 then
    if w < 2 ^ 57 then .ok (.bus (BitVec.ofNat 57 w)) else .error (.bitsAboveFormat 57)
  else if nbits = 32 then
    if w < 2 ^ 32 then .ok (.cmd (BitVec.ofNat 32 w)) else .error (.bitsAboveFormat 32)
  else if nbits = 3 ∨ nbits = 8 then
    if w < 2 ^ 3 then .ok (.seg (BitVec.ofNat 3 w)) else .error (.bitsAboveFormat 3)
  else .error (.noFormatOfLength nbits)

/-- Bytes as one number, the first byte least significant (the table's numbering of bits). -/
def numberOfBytes : List Byte → Nat
  | [] => 0
  | b :: rest => b.toNat + 256 * numberOfBytes rest

/-- Any byte string: 8 bytes are a bus transaction, 4 a command word, 1 a segment descriptor, and
everything else is rejected by name. -/
def decodeBytes (bytes : List Byte) : Except DecodeError Instr :=
  (wordOfBits (8 * bytes.length) (numberOfBytes bytes)).map decode

/-- The host's view of the decoder: the instruction whose table row has `nbits` bits and whose bits
are `w`. -/
def decodeTableWord (nbits w : Nat) : Option Instr :=
  match wordOfBits nbits w with
  | .ok word => some (decode word)
  | .error _ => none

/-- The bus word of a transaction, from the field table of R100. -/
def encodeBus (rw : BitVec 1) (region : BitVec 4) (index : BitVec 20) (wdata : Word) : BitVec 57 :=
  rw ++ region ++ index ++ wdata

/-- The word of an instruction, from the encoding tables R100, R104, R107, R108. A read's write-data
field is written 0 (V-B1). -/
def encode : Instr → InstrWord
  | .rd region index => .bus (encodeBus 0#1 region index 0#32)
  | .wr region index wdata => .bus (encodeBus 1#1 region index wdata)
  | .nop => .cmd 0x00000000#32
  | .modStart => .cmd 0x00000001#32
  | .demStart => .cmd 0x00000002#32
  | .pixFmt => .cmd 0x00000003#32
  | .softReset => .cmd 0x0000000F#32
  | .illegalCmd zero op => .cmd (zero ++ op)
  | .sym00 => .seg 0b000#3
  | .sym01 => .seg 0b001#3
  | .sym10 => .seg 0b010#3
  | .sym11 => .seg 0b011#3
  | .mlo => .seg 0b100#3
  | .mhi => .seg 0b101#3
  | .segReserved s => .seg (0b11#2 ++ s)

/-- A word's length in bits (R111). -/
def InstrWord.width : InstrWord → Nat
  | .bus _ => 57
  | .cmd _ => 32
  | .seg _ => 3

/-- A word as a number. -/
def InstrWord.toNat : InstrWord → Nat
  | .bus t => t.toNat
  | .cmd w => w.toNat
  | .seg d => d.toNat

end Sys2Proof
end

