-- ==== Sys2Proof/Machine/State.lean ====
section
/-! DEFINITION. Everything the spec gives the machine (10_state.md), as plain data, and the names its
parts go by; the state after reset; the two reason types of a step. -/

namespace Sys2Proof.Machine

/-- The two engines (R12). -/
inductive Engine where
  | mod
  | dem
deriving DecidableEq, Repr

/-- The implemented registers, by the names of R21. -/
inductive Reg where
  | id | cmd | ctrl | status | irqEn | modErr | demErr
  | sampleRate | baudRate | carrierFreq | markerFreq | markerDurUs | frameH | frameW
  | toneFreq0 | toneFreq1 | toneFreq2 | toneFreq3
  | modNbits | modNsamp | demNsamp | demNbits | demNsym | demOffset | pixCount
  | sps | markerSamples
deriving DecidableEq, Repr

/-- How the host may use a register (R21). -/
inductive Access where
  | rw | ro | wo
deriving DecidableEq, Repr

/-- When a write to a register is dropped with BUSY_VIOLATION (R21, R92). -/
inductive Lock where
  | none | any | mod | dem
deriving DecidableEq, Repr

/-- The element a valid bus address names (R70, R86). -/
inductive Target where
  | reg (r : Reg)
  | mbyte (i : Nat)
  | mpcm (i : Nat)
  | dpcm (i : Nat)
  | dbyte (i : Nat)
deriving DecidableEq, Repr

/-- The fields of STATUS, bits 0 to 12 in this order (R25). -/
inductive StatusBit where
  | modBusy | demBusy | modDone | demDone | modFault | demFault | markerNotFound | degraded
  | incompleteWindow | lenMismatch | busyViolation | illegalCmd | busErr
deriving DecidableEq, Repr

/-- The fatal error kinds (R290). -/
inductive ErrKind where
  | invalidPayloadLength | markerNotFound | configInvalid | capacity | zeroPeak | invalidSymbol
deriving DecidableEq, Repr

/-- Which operation the DEM engine was started for (R58). -/
inductive DemOp where
  | demod
  | pix
deriving DecidableEq, Repr

/-- The window of a segment (R142). -/
inductive Window where
  | rect
  | hamming
deriving DecidableEq, Repr

/-- One sample of a rendered segment, kept as what it is made of: sample `n` of a segment of `len`
samples at `freq` Hz, with its window, carrier and sample rate. Its value in the numeric domain is
`ToneSample.eval` (R140), so the frame buffer is plain data whatever the profile is. -/
structure ToneSample where
  freq : Nat
  n : Nat
  len : Nat
  win : Window
  carrier : Nat
  rate : Nat
deriving DecidableEq, Repr

/-- One memory (R54): the cells written since its content last became unspecified, each index once,
in rising order; and the number of that unspecified content, which the other cells read from. -/
structure Memory (w : Nat) where
  gen : Nat
  cells : List (Nat × BitVec w)
deriving DecidableEq, Repr

/-- The canonical form: indices strictly rising. An unlisted cell has no listed value (it reads as a
free value), so no entry can repeat one. -/
abbrev Memory.wf {w : Nat} (m : Memory w) : Prop := m.cells.Pairwise fun p q => p.1 < q.1

/-- One event of the order in which things happen: an agent's turn to move (R94), or a change of the
input `rst` (R64, R340). -/
inductive Turn where
  | agent (a : Agent)
  | rstHigh
  | rstLow
deriving DecidableEq, Repr

/-- An instruction word presented directly to the command decoder or to the sequencer, with no bus
transaction or operation around it: the model's own way to run one command or one segment. -/
inductive Direct where
  | cmd (w : Word)
  | seg (d : BitVec 3)
deriving DecidableEq, Repr

/-- The state of the block, and beside it the state of the model's environment. -/
structure State where
  /-- CTRL, bit 0 FALLBACK_EN (R24). -/
  ctrl : Word
  /-- STATUS, bits 12:0 (R25). -/
  status : Word
  /-- IRQ_EN, bits 12:2 (R26). -/
  irqEn : Word
  /-- MOD_ERR (R27). -/
  modErr : Word
  /-- DEM_ERR (R28). -/
  demErr : Word
  /-- SAMPLE_RATE (R29). -/
  sampleRate : Word
  /-- BAUD_RATE (R30). -/
  baudRate : Word
  /-- CARRIER_FREQ (R31). -/
  carrierFreq : Word
  /-- MARKER_FREQ (R32). -/
  markerFreq : Word
  /-- MARKER_DUR_US (R33). -/
  markerDurUs : Word
  /-- FRAME_H (R34). -/
  frameH : Word
  /-- FRAME_W (R35). -/
  frameW : Word
  /-- TONE_FREQ0, f00 (R36). -/
  toneFreq0 : Word
  /-- TONE_FREQ1, f01 (R36). -/
  toneFreq1 : Word
  /-- TONE_FREQ2, f10 (R36). -/
  toneFreq2 : Word
  /-- TONE_FREQ3, f11 (R36). -/
  toneFreq3 : Word
  /-- MOD_NBITS (R37). -/
  modNbits : Word
  /-- MOD_NSAMP (R38). -/
  modNsamp : Word
  /-- DEM_NSAMP (R39). -/
  demNsamp : Word
  /-- DEM_NBITS (R40). -/
  demNbits : Word
  /-- DEM_NSYM (R41). -/
  demNsym : Word
  /-- DEM_OFFSET (R42). -/
  demOffset : Word
  /-- PIX_COUNT (R43). -/
  pixCount : Word
  /-- The hidden `dem_op` (R58). -/
  demOp : DemOp
  /-- MBYTE, the payload bytes (R54). -/
  mbyte : Memory 8
  /-- MPCM, the frame (R54). -/
  mpcm : Memory 16
  /-- DPCM, the capture (R54). -/
  dpcm : Memory 16
  /-- DBYTE, the recovered bytes (R54). -/
  dbyte : Memory 8
  /-- The sequencer's segment index `seg` (R56). -/
  seqSeg : Nat
  /-- The sequencer's sample index `n` inside the segment (R56). -/
  seqN : Nat
  /-- The frame buffer `buf` of the modulation in progress (R58). -/
  buf : List ToneSample
  /-- The level of the input `rst` (R64). -/
  rst : Bool
  /-- The plain parameters of the implementation (R6); no step writes them. -/
  config : Config
  /-- The host's transactions not yet issued, in issue order (R12, R362). -/
  script : List (BitVec 57)
  /-- The data returned to the host's reads, oldest first (R362 (a)). -/
  readLog : List Word
  /-- The order of events as far as it is given, next first (R94); where it ends, a free value chooses. -/
  turns : List Turn
  /-- The model's own port for one command word or segment descriptor. -/
  direct : Option Direct
  /-- The model's own counter of free choices of an agent. -/
  tick : Nat
  /-- The model's own number of the next unspecified memory content. -/
  nextGen : Nat
deriving DecidableEq, Repr

/-- The state right after `rst` (R62, R340): every register at its reset value, both engines idle, the
four memories unspecified, the default parameters (R6), no transaction issued and none waiting. -/
def State.reset : State where
  ctrl := 0#32
  status := 0#32
  irqEn := 0#32
  modErr := 0#32
  demErr := 0#32
  sampleRate := 0#32
  baudRate := 0#32
  carrierFreq := 0#32
  markerFreq := 0#32
  markerDurUs := 0#32
  frameH := 0#32
  frameW := 0#32
  toneFreq0 := 0#32
  toneFreq1 := 0#32
  toneFreq2 := 0#32
  toneFreq3 := 0#32
  modNbits := 0#32
  modNsamp := 0#32
  demNsamp := 0#32
  demNbits := 0#32
  demNsym := 0#32
  demOffset := 0#32
  pixCount := 0#32
  demOp := .demod
  mbyte := { gen := 0, cells := [] }
  mpcm := { gen := 1, cells := [] }
  dpcm := { gen := 2, cells := [] }
  dbyte := { gen := 3, cells := [] }
  seqSeg := 0
  seqN := 0
  buf := []
  rst := false
  config := .default
  script := []
  readLog := []
  turns := []
  direct := none
  tick := 0
  nextGen := 4

/-- Why the machine stands still. -/
inductive Fault where
  /-- Raised by `step` alone, never by an instruction: no event is given and no agent has a step
  enabled, so the run has ended and the state is final (R362). SAFE: nothing follows. -/
  | runEnded
deriving DecidableEq, Repr

/-- Why an instruction has no meaning. -/
inductive Refusal where
  /-- Raised by an arm of `exec` whose instruction has no meaning yet; no arm is left that does.
  SAFE: nothing is claimed of such an instruction. -/
  | notModelled (mnemonic : String)
deriving DecidableEq, Repr

end Sys2Proof.Machine
end

