-- ==== Sys2Proof/Machine/Flags.lean ====
section
/-! DEFINITION. The STATUS flags (R25, R60) and the interrupt output (R64, R305). The block has no
arithmetic condition codes; these flags are all there is. -/

namespace Sys2Proof.Machine

/-- A field's bit position in STATUS (R25). -/
def StatusBit.index : StatusBit → Nat
  | .modBusy => 0
  | .demBusy => 1
  | .modDone => 2
  | .demDone => 3
  | .modFault => 4
  | .demFault => 5
  | .markerNotFound => 6
  | .degraded => 7
  | .incompleteWindow => 8
  | .lenMismatch => 9
  | .busyViolation => 10
  | .illegalCmd => 11
  | .busErr => 12

/-- The word with a 1 at the field's position only. -/
def StatusBit.mask (b : StatusBit) : Word := 1#32 <<< b.index

/-- The sticky bits 12:2 (R25): the ones a host clears and the ones that raise `irq`. -/
def stickyMask : Word := 0x00001FFC#32

/-- The implemented bits 12:0 of STATUS (R25, R112). -/
def statusMask : Word := 0x00001FFF#32

/-- The implemented bit of CTRL (R24). -/
def ctrlMask : Word := 0x00000001#32

/-- A field of STATUS. -/
def State.flag (s : State) (b : StatusBit) : Bool := s.status.getLsbD b.index

/-- A flag is set; nothing else changes (R7, `raise flag F`). -/
def raise (b : StatusBit) (s : State) : State := { s with status := s.status ||| b.mask }

/-- A field of STATUS becomes 0. -/
def lower (b : StatusBit) (s : State) : State := { s with status := s.status &&& ~~~b.mask }

/-- The BUSY field of an engine. -/
def Engine.busyBit : Engine → StatusBit
  | .mod => .modBusy
  | .dem => .demBusy

/-- An engine has an operation pending (R25, R260). -/
def State.busy (s : State) (e : Engine) : Bool := s.flag e.busyBit

/-- Either engine is busy (R92). -/
def State.anyBusy (s : State) : Bool := s.busy .mod || s.busy .dem

/-- CTRL.FALLBACK_EN (R24). -/
def State.fallbackEn (s : State) : Bool := s.ctrl.getLsbD 0

/-- The host's write to STATUS: bits 12:2 written as 1 are cleared (R263, R96). -/
def writeOneToClear (v : Word) (s : State) : State :=
  { s with status := s.status &&& ~~~(v &&& stickyMask) }

/-- The output `irq` (R64, R305): a level, a function of the state after every step. -/
def State.irq (s : State) : Bool := (s.status &&& s.irqEn &&& stickyMask) != 0#32

end Sys2Proof.Machine
end

