-- ==== Sys2Proof/Machine/Operands.lean ====
section
/-! DEFINITION. The operand forms: bus addresses (R86), data widths on the bus (R72, R110), the
registers' map (R21), and the quantities derived from the configuration (R50, R52). -/

namespace Sys2Proof.Machine

/-- The register at a word index, none at a reserved one (R21, R44). -/
def Reg.ofIndex : Nat → Option Reg
  | 0x00 => some .id
  | 0x01 => some .cmd
  | 0x02 => some .ctrl
  | 0x03 => some .status
  | 0x04 => some .irqEn
  | 0x05 => some .modErr
  | 0x06 => some .demErr
  | 0x08 => some .sampleRate
  | 0x09 => some .baudRate
  | 0x0A => some .carrierFreq
  | 0x0B => some .markerFreq
  | 0x0C => some .markerDurUs
  | 0x0D => some .frameH
  | 0x0E => some .frameW
  | 0x10 => some .toneFreq0
  | 0x11 => some .toneFreq1
  | 0x12 => some .toneFreq2
  | 0x13 => some .toneFreq3
  | 0x18 => some .modNbits
  | 0x19 => some .modNsamp
  | 0x1A => some .demNsamp
  | 0x1B => some .demNbits
  | 0x1C => some .demNsym
  | 0x1D => some .demOffset
  | 0x1E => some .pixCount
  | 0x20 => some .sps
  | 0x21 => some .markerSamples
  | _ => none

/-- A register's word index (R21). -/
def Reg.index : Reg → Nat
  | .id => 0x00
  | .cmd => 0x01
  | .ctrl => 0x02
  | .status => 0x03
  | .irqEn => 0x04
  | .modErr => 0x05
  | .demErr => 0x06
  | .sampleRate => 0x08
  | .baudRate => 0x09
  | .carrierFreq => 0x0A
  | .markerFreq => 0x0B
  | .markerDurUs => 0x0C
  | .frameH => 0x0D
  | .frameW => 0x0E
  | .toneFreq0 => 0x10
  | .toneFreq1 => 0x11
  | .toneFreq2 => 0x12
  | .toneFreq3 => 0x13
  | .modNbits => 0x18
  | .modNsamp => 0x19
  | .demNsamp => 0x1A
  | .demNbits => 0x1B
  | .demNsym => 0x1C
  | .demOffset => 0x1D
  | .pixCount => 0x1E
  | .sps => 0x20
  | .markerSamples => 0x21

/-- How the host may use a register (R21). STATUS counts as writable: its write clears (R25). -/
def Reg.access : Reg → Access
  | .id => .ro
  | .cmd => .wo
  | .ctrl => .rw
  | .status => .rw
  | .irqEn => .rw
  | .modErr => .ro
  | .demErr => .ro
  | .sampleRate => .rw
  | .baudRate => .rw
  | .carrierFreq => .rw
  | .markerFreq => .rw
  | .markerDurUs => .rw
  | .frameH => .rw
  | .frameW => .rw
  | .toneFreq0 => .rw
  | .toneFreq1 => .rw
  | .toneFreq2 => .rw
  | .toneFreq3 => .rw
  | .modNbits => .rw
  | .modNsamp => .ro
  | .demNsamp => .rw
  | .demNbits => .ro
  | .demNsym => .ro
  | .demOffset => .ro
  | .pixCount => .ro
  | .sps => .ro
  | .markerSamples => .ro

/-- When a write to a register is locked (R21, R92, R93; MOD_NBITS by MOD alone and DEM_NSAMP by DEM alone, where
R350 sums the locks up: log entry 16, DEDUCED). -/
def Reg.lock : Reg → Lock
  | .id => .none
  | .cmd => .none
  | .ctrl => .any
  | .status => .none
  | .irqEn => .none
  | .modErr => .none
  | .demErr => .none
  | .sampleRate => .any
  | .baudRate => .any
  | .carrierFreq => .any
  | .markerFreq => .any
  | .markerDurUs => .any
  | .frameH => .any
  | .frameW => .any
  | .toneFreq0 => .any
  | .toneFreq1 => .any
  | .toneFreq2 => .any
  | .toneFreq3 => .any
  | .modNbits => .mod
  | .modNsamp => .none
  | .demNsamp => .dem
  | .demNbits => .none
  | .demNsym => .none
  | .demOffset => .none
  | .pixCount => .none
  | .sps => .none
  | .markerSamples => .none

/-- A lock holds in a state (R92). -/
def Lock.holds (l : Lock) (s : State) : Bool :=
  match l with
  | .none => false
  | .any => s.anyBusy
  | .mod => s.busy .mod
  | .dem => s.busy .dem

/-- The element an address names, none where the address is not valid (R86, R87, R264): a reserved
region, a register index above 0x3F or reserved, a memory index at or above the capacity. -/
def target (c : Config) (region : BitVec 4) (index : BitVec 20) : Option Target :=
  let i := index.toNat
  if region = 0x0#4 then (Reg.ofIndex i).map .reg
  else if region = 0x1#4 then if i < c.capMbyte then some (.mbyte i) else none
  else if region = 0x2#4 then if i < c.capMpcm then some (.mpcm i) else none
  else if region = 0x3#4 then if i < c.capDpcm then some (.dpcm i) else none
  else if region = 0x4#4 then if i < c.capDbyte then some (.dbyte i) else none
  else none

/-- A byte on the bus: zero-extended when read (R72). -/
def busOfByte (b : Byte) : Word := b.setWidth 32

/-- A sample on the bus: sign-extended when read (R72). -/
def busOfPcm (p : Pcm) : Word := p.signExtend 32

/-- Write data narrowed to a byte: bits 7:0 (R72, R110). -/
def byteOfBus (v : Word) : Byte := v.extractLsb' 0 8

/-- Write data narrowed to a sample: bits 15:0 (R72, R110). -/
def pcmOfBus (v : Word) : Pcm := v.extractLsb' 0 16

/-- `SPS` (R50); 0 where BAUD_RATE is 0, which no engine uses (R10, R46). -/
def sps (s : State) : Nat := s.sampleRate.toNat / s.baudRate.toNat

/-- `MH`, samples per marker half (R50). -/
def markerHalf (s : State) : Nat := s.sampleRate.toNat * s.markerDurUs.toNat / 2000000

/-- `MS`, samples per marker (R50). -/
def markerLen (s : State) : Nat := 2 * markerHalf s

/-- `frequency_for` (R130): the tone of a symbol code. -/
def toneFreq (s : State) (c : SymbolCode) : Nat :=
  if c = 0b00#2 then s.toneFreq0.toNat
  else if c = 0b01#2 then s.toneFreq1.toNat
  else if c = 0b10#2 then s.toneFreq2.toNat
  else s.toneFreq3.toNat

/-- `cfg_ok` (R52). -/
def cfgOk (s : State) : Bool :=
  decide (1 ≤ s.sampleRate.toNat) && decide (1 ≤ s.baudRate.toNat) && decide (1 ≤ sps s) &&
  decide (1 ≤ markerHalf s) &&
  decide (s.toneFreq0.toNat < s.toneFreq1.toNat) && decide (s.toneFreq1.toNat < s.toneFreq2.toNat) &&
  decide (s.toneFreq2.toNat < s.toneFreq3.toNat)

/-- A derived register saturates at 2^32 - 1 when read (R11). -/
def saturate (n : Nat) : Word := BitVec.ofNat 32 (min n (2 ^ 32 - 1))

/-- A read of SPS (R46). -/
def readSps (s : State) : Word := if 1 ≤ s.baudRate.toNat then saturate (sps s) else 0#32

/-- A read of MARKER_SAMPLES (R47). -/
def readMarkerSamples (s : State) : Word := saturate (markerLen s)

/-- `nsym` (R175). -/
def symbolCount (s : State) : Nat := s.modNbits.toNat / 2

/-- `total`, the length of the frame (R174, R178). -/
def frameLen (s : State) : Nat := 2 * markerLen s + symbolCount s * sps s

/-- The bytes MOD_NBITS bits take (R174). -/
def payloadBytes (s : State) : Nat := (s.modNbits.toNat + 7) / 8

end Sys2Proof.Machine
end

