-- ==== Sys2Proof/Machine/Ops.lean ====
section
/-! DEFINITION. The operations over memories and registers that more than one instruction uses: cells,
register accesses, reset, and taking a fatal fault (60_exceptions.md), which is this block's
exception. There is no return beside it: nothing is entered, control goes nowhere (R302, R310). -/

namespace Sys2Proof.Machine

/-! ### Memories -/

/-- The content of a cell: its last written value, or the unspecified one it has held since its memory
last became unspecified (R54, R341). -/
def Memory.read {w : Nat} (m : Memory w) (i : Nat) : BitVec w :=
  (m.cells.lookup i).getD (Config.freeCell w m.gen i)

/-- The cells `base`, `base + 1`, … take the listed values; every other cell keeps its own. -/
def Memory.store {w : Nat} (m : Memory w) (base : Nat) (vs : List (BitVec w)) : Memory w :=
  { m with
    cells := m.cells.filter (fun p => decide (p.1 < base))
      ++ vs.mapIdx (fun k v => (base + k, v))
      ++ m.cells.filter (fun p => decide (base + vs.length ≤ p.1)) }

/-- One cell takes a value. -/
def Memory.write {w : Nat} (m : Memory w) (i : Nat) (v : BitVec w) : Memory w := m.store i [v]

/-- A memory whose every cell is unspecified (R341). -/
def Memory.unspecified (w gen : Nat) : Memory w := { gen := gen, cells := [] }

/-- `bit(B, i)` of a bit sequence held in bytes, most significant bit first (R71). -/
def payloadBit (m : Memory 8) (i : Nat) : Bool := (m.read (i / 8)).getLsbD (7 - i % 8)

/-- The symbol fetch `sym(k)` (R78): the earlier bit is the high bit of the code. -/
def symbolAt (m : Memory 8) (k : Nat) : SymbolCode :=
  BitVec.ofBool (payloadBit m (2 * k)) ++ BitVec.ofBool (payloadBit m (2 * k + 1))

/-! ### Registers -/

/-- ID (R22). -/
def idValue : Word := 0x46534B31#32

/-- `RegRead` (R266). -/
def regRead (r : Reg) (s : State) : Word :=
  match r with
  | .id => idValue
  | .cmd => 0#32
  | .ctrl => s.ctrl &&& ctrlMask
  | .status => s.status &&& statusMask
  | .irqEn => s.irqEn &&& stickyMask
  | .modErr => s.modErr
  | .demErr => s.demErr
  | .sampleRate => s.sampleRate
  | .baudRate => s.baudRate
  | .carrierFreq => s.carrierFreq
  | .markerFreq => s.markerFreq
  | .markerDurUs => s.markerDurUs
  | .frameH => s.frameH
  | .frameW => s.frameW
  | .toneFreq0 => s.toneFreq0
  | .toneFreq1 => s.toneFreq1
  | .toneFreq2 => s.toneFreq2
  | .toneFreq3 => s.toneFreq3
  | .modNbits => s.modNbits
  | .modNsamp => s.modNsamp
  | .demNsamp => s.demNsamp
  | .demNbits => s.demNbits
  | .demNsym => s.demNsym
  | .demOffset => s.demOffset
  | .pixCount => s.pixCount
  | .sps => readSps s
  | .markerSamples => readMarkerSamples s

/-- What a host write stores in a register that stores (R263), locks aside: CTRL and IRQ_EN keep their
implemented bits (R112), STATUS clears. A register without a stored host value keeps the state. -/
def storeReg (r : Reg) (v : Word) (s : State) : State :=
  match r with
  | .id => s
  | .cmd => s
  | .ctrl => { s with ctrl := v &&& ctrlMask }
  | .status => writeOneToClear v s
  | .irqEn => { s with irqEn := v &&& stickyMask }
  | .modErr => s
  | .demErr => s
  | .sampleRate => { s with sampleRate := v }
  | .baudRate => { s with baudRate := v }
  | .carrierFreq => { s with carrierFreq := v }
  | .markerFreq => { s with markerFreq := v }
  | .markerDurUs => { s with markerDurUs := v }
  | .frameH => { s with frameH := v }
  | .frameW => { s with frameW := v }
  | .toneFreq0 => { s with toneFreq0 := v }
  | .toneFreq1 => { s with toneFreq1 := v }
  | .toneFreq2 => { s with toneFreq2 := v }
  | .toneFreq3 => { s with toneFreq3 := v }
  | .modNbits => { s with modNbits := v }
  | .modNsamp => s
  | .demNsamp => { s with demNsamp := v }
  | .demNbits => s
  | .demNsym => s
  | .demOffset => s
  | .pixCount => s
  | .sps => s
  | .markerSamples => s

/-! ### Taking a fatal fault -/

/-- The code of a fatal kind (R290). -/
def ErrKind.code : ErrKind → Word
  | .invalidPayloadLength => 1#32
  | .markerNotFound => 2#32
  | .configInvalid => 3#32
  | .capacity => 4#32
  | .zeroPeak => 5#32
  | .invalidSymbol => 6#32

/-- The sequencer's position and frame buffer as they are outside an operation: position (0, 0), no
buffer (R56, R58). -/
def idleSequencer (s : State) : State := { s with seqSeg := 0, seqN := 0, buf := [] }

/-- `fault_mod(code)` (R300): the end of a modulation by a fatal fault. -/
def faultMod (k : ErrKind) (s : State) : State :=
  raise .modFault (lower .modBusy (idleSequencer { s with modErr := k.code, modNsamp := 0#32 }))

/-- `fault_dem(code)` (R301): the end of a DEM operation by a fatal fault; the three demodulation
results are zeroed when the operation is a demodulation. -/
def faultDem (k : ErrKind) (s : State) : State :=
  let s := { s with demErr := k.code, pixCount := 0#32 }
  let s := match s.demOp with
    | .demod => { s with demNbits := 0#32, demNsym := 0#32, demOffset := 0#32 }
    | .pix => s
  raise .demFault (lower .demBusy s)

/-! ### Reset -/

/-- Every register, `dem_op` and the sequencer at the reset values of R62; memories and everything of
the environment untouched. -/
def resetRegisters (s : State) : State :=
  { s with
    ctrl := 0#32, status := 0#32, irqEn := 0#32, modErr := 0#32, demErr := 0#32,
    sampleRate := 0#32, baudRate := 0#32, carrierFreq := 0#32, markerFreq := 0#32,
    markerDurUs := 0#32, frameH := 0#32, frameW := 0#32,
    toneFreq0 := 0#32, toneFreq1 := 0#32, toneFreq2 := 0#32, toneFreq3 := 0#32,
    modNbits := 0#32, modNsamp := 0#32, demNsamp := 0#32, demNbits := 0#32, demNsym := 0#32,
    demOffset := 0#32, pixCount := 0#32, demOp := .demod, seqSeg := 0, seqN := 0, buf := [] }

/-- The input `rst` rises (R340 (a), R341): the reset state, every memory unspecified anew. -/
def assertReset (s : State) : State :=
  { resetRegisters s with
    mbyte := .unspecified 8 s.nextGen
    mpcm := .unspecified 16 (s.nextGen + 1)
    dpcm := .unspecified 16 (s.nextGen + 2)
    dbyte := .unspecified 8 (s.nextGen + 3)
    nextGen := s.nextGen + 4
    rst := true }

/-- The input `rst` falls: the block serves transactions again (R340 (a)). -/
def releaseReset (s : State) : State := { s with rst := false }

/-- SOFT_RESET (R274, R341): the registers' reset values; MPCM becomes unspecified if MOD was busy,
DBYTE if DEM was busy; every other memory keeps its content. -/
def softReset (s : State) : State :=
  { resetRegisters s with
    mpcm := if s.busy .mod then .unspecified 16 s.nextGen else s.mpcm
    dbyte := if s.busy .dem then .unspecified 8 (s.nextGen + 1) else s.dbyte
    nextGen := s.nextGen + 2 }

end Sys2Proof.Machine
end

