-- ==== Sys2Proof/Machine/Commands.lean ====
section
/-! DEFINITION. The meanings of the command words (47_host_commands.md, section 2). -/

namespace Sys2Proof.Machine

/-- NOP: nothing (R270). -/
def runNop (s : State) : State := s

/-- MOD_START (R271): dropped where MOD is busy; else MOD becomes busy, its sequencer at (0, 0) (R56). -/
def runModStart (s : State) : State :=
  if s.busy .mod then raise .busyViolation s else raise .modBusy (idleSequencer s)

/-- DEM_START (R272): dropped where DEM is busy; else DEM becomes busy with a demodulation. -/
def runDemStart (s : State) : State :=
  if s.busy .dem then raise .busyViolation s else raise .demBusy { s with demOp := .demod }

/-- PIX_FMT (R273): dropped where DEM is busy; else DEM becomes busy with a pixel formatting. -/
def runPixFmt (s : State) : State :=
  if s.busy .dem then raise .busyViolation s else raise .demBusy { s with demOp := .pix }

/-- SOFT_RESET (R274). -/
def runSoftReset (s : State) : State := softReset s

/-- An undefined command word raises ILLEGAL_CMD and does nothing else (R276). -/
def runIllegalCmd (s : State) : State := raise .illegalCmd s

/-- What the command decoder does with one command (R263, CMD). -/
def runCommand (c : Command) (s : State) : State :=
  match c with
  | .nop => runNop s
  | .modStart => runModStart s
  | .demStart => runDemStart s
  | .pixFmt => runPixFmt s
  | .softReset => runSoftReset s
  | .illegal _ _ => runIllegalCmd s

/-- The meaning of NOP. -/
def execNop (s : State) : Host.Outcome State Fault Refusal := .next (runNop s)

/-- The meaning of MOD_START. -/
def execModStart (s : State) : Host.Outcome State Fault Refusal := .next (runModStart s)

/-- The meaning of DEM_START. -/
def execDemStart (s : State) : Host.Outcome State Fault Refusal := .next (runDemStart s)

/-- The meaning of PIX_FMT. -/
def execPixFmt (s : State) : Host.Outcome State Fault Refusal := .next (runPixFmt s)

/-- The meaning of SOFT_RESET. -/
def execSoftReset (s : State) : Host.Outcome State Fault Refusal := .next (runSoftReset s)

/-- The meaning of ILLEGAL_CMD: the same for every undefined word. -/
def execIllegalCmd (_zero : BitVec 24) (_op : BitVec 8) (s : State) :
    Host.Outcome State Fault Refusal := .next (runIllegalCmd s)

end Sys2Proof.Machine
end

