-- ==== Sys2Proof/Machine/Bus.lean ====
section
/-! DEFINITION. The meanings of the bus transactions RD and WR (47_host_commands.md, section 1). -/

namespace Sys2Proof.Machine

/-- A cell of a memory is accessed only while its owner is idle; else the access is refused with
BUSY_VIOLATION and a read returns 0 (R91). -/
def readOwned (owner : Engine) (data : Word) (s : State) : Word × State :=
  if s.busy owner then (0#32, raise .busyViolation s) else (data, s)

/-- The data a read returns and the state it leaves (R260, R262). -/
def busRead (region : BitVec 4) (index : BitVec 20) (s : State) : Word × State :=
  match target s.config region index with
  | none => (0#32, raise .busErr s)
  | some (.reg r) => (regRead r s, s)
  | some (.mbyte i) => readOwned .mod (busOfByte (s.mbyte.read i)) s
  | some (.mpcm i) => readOwned .mod (busOfPcm (s.mpcm.read i)) s
  | some (.dpcm i) => readOwned .dem (busOfPcm (s.dpcm.read i)) s
  | some (.dbyte i) => readOwned .dem (busOfByte (s.dbyte.read i)) s

/-- `RegWrite` (R263) for a register the host may write: a locked register keeps its value and
BUSY_VIOLATION is raised (R92); a write to CMD executes the command word. -/
def regWrite (r : Reg) (v : Word) (s : State) : State :=
  if r.lock.holds s then raise .busyViolation s
  else if r = .cmd then runCommand (decodeCommand v) s
  else storeReg r v s

/-- The state a write leaves (R261, R262, R264). -/
def busWrite (region : BitVec 4) (index : BitVec 20) (v : Word) (s : State) : State :=
  match target s.config region index with
  | none => raise .busErr s
  | some (.reg r) => if r.access = .ro then raise .busErr s else regWrite r v s
  | some (.mbyte i) =>
    if s.busy .mod then raise .busyViolation s
    else { s with mbyte := s.mbyte.write i (byteOfBus v) }
  | some (.mpcm _) => raise .busErr s
  | some (.dpcm i) =>
    if s.busy .dem then raise .busyViolation s
    else { s with dpcm := s.dpcm.write i (pcmOfBus v) }
  | some (.dbyte _) => raise .busErr s

/-- The host receives the data of a read (R362 (a)). -/
def returnData (v : Word) (s : State) : State := { s with readLog := s.readLog ++ [v] }

/-- The meaning of RD (R260). -/
def execRd (region : BitVec 4) (index : BitVec 20) (s : State) : Host.Outcome State Fault Refusal :=
  .next (returnData (busRead region index s).1 (busRead region index s).2)

/-- The meaning of WR (R261). -/
def execWr (region : BitVec 4) (index : BitVec 20) (wdata : Word) (s : State) :
    Host.Outcome State Fault Refusal :=
  .next (busWrite region index wdata s)

end Sys2Proof.Machine
end

