-- ==== Sys2Proof/Machine/Tone.lean ====
section
/-! DEFINITION. The Tone Synthesizer (41_tone_synthesizer.md), the Symbol Alphabet's tones (R135) and
the marker (R160). A tone is first the list of what its samples are made of, plain data; its values are
taken in an ordered field `K` with the functions of a numeric profile (R8). -/

namespace Sys2Proof.Machine

/-- The samples of `tone(f, N, win, fc)` as plain data (R140, R141): time restarts at 0. -/
def toneSamples (f N : Nat) (win : Window) (fc rate : Nat) : List ToneSample :=
  (List.range N).map fun n => { freq := f, n := n, len := N, win := win, carrier := fc, rate := rate }

section Values

variable {K : Type} [Field K]

/-- The Hamming window `ham(N, n)` (R143); its values at the ends and the centre and its symmetry rest on the
profile's laws (log entry 3). -/
def hamming (T : Numeric K) (N n : Nat) : K :=
  if N ≤ 1 then 1 else 27 / 50 - 23 / 50 * T.cos1 ((n : ℚ) / ((N : ℚ) - 1))

/-- The window selector `W` (R142). -/
def windowValue (T : Numeric K) (win : Window) (N n : Nat) : K :=
  match win with
  | .rect => 1
  | .hamming => hamming T N n

/-- The carrier factor `car(fc, n)` (R144). -/
def carrierFactor (T : Numeric K) (fc rate n : Nat) : K :=
  if fc = 0 then 1 else T.cos1 (((fc * n : Nat) : ℚ) / (rate : ℚ))

/-- The value of one sample of a tone (R140). -/
def ToneSample.eval (T : Numeric K) (t : ToneSample) : K :=
  T.sin1 (((t.freq * t.n : Nat) : ℚ) / (t.rate : ℚ)) * windowValue T t.win t.len t.n *
    carrierFactor T t.carrier t.rate t.n

/-- `tone(f, N, win, fc)` (R140). -/
def tone (T : Numeric K) (f N : Nat) (win : Window) (fc rate : Nat) : List K :=
  (toneSamples f N win fc rate).map (ToneSample.eval T)

end Values

/-- The samples of `symtone(c)` under the configuration of a state (R135). -/
def symbolSamples (s : State) (c : SymbolCode) : List ToneSample :=
  toneSamples (toneFreq s c) (sps s) .hamming s.carrierFreq.toNat s.sampleRate.toNat

/-- The samples of the low marker half (R161, R162). -/
def markerLowSamples (s : State) : List ToneSample :=
  toneSamples s.markerFreq.toNat (markerHalf s) .rect 0 s.sampleRate.toNat

/-- The samples of the high marker half: the frequency doubled without wrap-around (R161, R163, R32). -/
def markerHighSamples (s : State) : List ToneSample :=
  toneSamples (2 * s.markerFreq.toNat) (markerHalf s) .rect 0 s.sampleRate.toNat

/-- The samples of the marker (R160). -/
def markerSamples (s : State) : List ToneSample := markerLowSamples s ++ markerHighSamples s

section Values

variable {K : Type} [Field K]

/-- `symtone(c)` (R135). -/
def symtone (T : Numeric K) (s : State) (c : SymbolCode) : List K :=
  (symbolSamples s c).map (ToneSample.eval T)

/-- `marker` (R160), the correlator's template (R201). -/
def marker (T : Numeric K) (s : State) : List K := (markerSamples s).map (ToneSample.eval T)

end Values

end Sys2Proof.Machine
end

