-- ==== Sys2Proof/Machine/Segments.lean ====
section
/-! DEFINITION. The meanings of the segment descriptors: the four symbols (R131 to R134), the marker
halves (R162, R163) and the reserved descriptors (R177). -/

namespace Sys2Proof.Machine

/-- `emit(…)` (R131): the samples are appended to the frame buffer and the sequencer moves past the
segment, `seg <- seg + 1, n <- 0` (R56). -/
def emit (samples : List ToneSample) (s : State) : State :=
  { s with buf := s.buf ++ samples, seqSeg := s.seqSeg + 1, seqN := 0 }

/-- SYM00: `emit(symtone(0))` (R131). -/
def runSym00 (s : State) : State := emit (symbolSamples s 0b00#2) s

/-- SYM01: `emit(symtone(1))` (R132). -/
def runSym01 (s : State) : State := emit (symbolSamples s 0b01#2) s

/-- SYM10: `emit(symtone(2))` (R133). -/
def runSym10 (s : State) : State := emit (symbolSamples s 0b10#2) s

/-- SYM11: `emit(symtone(3))` (R134). -/
def runSym11 (s : State) : State := emit (symbolSamples s 0b11#2) s

/-- MLO: `emit(tone(MARKER_FREQ, MH, RECT, 0))` (R162). -/
def runMlo (s : State) : State := emit (markerLowSamples s) s

/-- MHI: `emit(tone(2*MARKER_FREQ, MH, RECT, 0))` (R163). -/
def runMhi (s : State) : State := emit (markerHighSamples s) s

/-- A reserved descriptor: the fatal fault InvalidSymbol, code 6 (R108, R177, R296). -/
def runSegReserved (s : State) : State := faultMod .invalidSymbol s

/-- What the sequencer does with one segment (R177, R178). -/
def runSegment (g : Segment) (s : State) : State :=
  match g with
  | .sym00 => runSym00 s
  | .sym01 => runSym01 s
  | .sym10 => runSym10 s
  | .sym11 => runSym11 s
  | .mlo => runMlo s
  | .mhi => runMhi s
  | .reserved _ => runSegReserved s

/-- The meaning of SYM00. -/
def execSym00 (s : State) : Host.Outcome State Fault Refusal := .next (runSym00 s)

/-- The meaning of SYM01. -/
def execSym01 (s : State) : Host.Outcome State Fault Refusal := .next (runSym01 s)

/-- The meaning of SYM10. -/
def execSym10 (s : State) : Host.Outcome State Fault Refusal := .next (runSym10 s)

/-- The meaning of SYM11. -/
def execSym11 (s : State) : Host.Outcome State Fault Refusal := .next (runSym11 s)

/-- The meaning of MLO. -/
def execMlo (s : State) : Host.Outcome State Fault Refusal := .next (runMlo s)

/-- The meaning of MHI. -/
def execMhi (s : State) : Host.Outcome State Fault Refusal := .next (runMhi s)

/-- The meaning of SEG_RESERVED: both descriptors raise the same fault, whatever the low bit. -/
def execSegReserved (_low : BitVec 1) (s : State) : Host.Outcome State Fault Refusal :=
  .next (runSegReserved s)

end Sys2Proof.Machine
end

