-- ==== Sys2Proof/Machine/Dispatch.lean ====
section
/-! DEFINITION. The meaning of every instruction: one arm for each row of the opcode table. -/

namespace Sys2Proof.Machine

def exec (i : Instr) (s : State) : Host.Outcome State Fault Refusal :=
  match i with
  | .rd region index => Sys2Proof.Machine.execRd region index s
  | .wr region index wdata => Sys2Proof.Machine.execWr region index wdata s
  | .nop => Sys2Proof.Machine.execNop s
  | .modStart => Sys2Proof.Machine.execModStart s
  | .demStart => Sys2Proof.Machine.execDemStart s
  | .pixFmt => Sys2Proof.Machine.execPixFmt s
  | .softReset => Sys2Proof.Machine.execSoftReset s
  | .illegalCmd zero op => Sys2Proof.Machine.execIllegalCmd zero op s
  | .sym00 => Sys2Proof.Machine.execSym00 s
  | .sym01 => Sys2Proof.Machine.execSym01 s
  | .sym10 => Sys2Proof.Machine.execSym10 s
  | .sym11 => Sys2Proof.Machine.execSym11 s
  | .mlo => Sys2Proof.Machine.execMlo s
  | .mhi => Sys2Proof.Machine.execMhi s
  | .segReserved low => Sys2Proof.Machine.execSegReserved low s

end Sys2Proof.Machine
end

