-- ==== Sys2Proof/Machine/Codec.lean ====
section
/-! DEFINITION. The Payload Codec (46_payload_codec.md): bit sequences, bytes, pixels. -/

namespace Sys2Proof.Machine

/-- The bits of a byte, most significant first (R71, R245). -/
def bitsOfByte (b : Byte) : List Bool := (List.range 8).map fun t => b.getLsbD (7 - t)

/-- `bits_from_bytes` (R245). -/
def bitsFromBytes (bytes : List Byte) : List Bool := bytes.flatMap bitsOfByte

/-- Eight bits as a byte, the first the most significant (R246). -/
def byteOfBits (b0 b1 b2 b3 b4 b5 b6 b7 : Bool) : Byte :=
  BitVec.ofBool b0 ++ BitVec.ofBool b1 ++ BitVec.ofBool b2 ++ BitVec.ofBool b3 ++
    BitVec.ofBool b4 ++ BitVec.ofBool b5 ++ BitVec.ofBool b6 ++ BitVec.ofBool b7

/-- `bytes_from_bits` (R246): the last `n mod 8` bits are dropped. -/
def bytesFromBits : List Bool → List Byte
  | b0 :: b1 :: b2 :: b3 :: b4 :: b5 :: b6 :: b7 :: rest =>
    byteOfBits b0 b1 b2 b3 b4 b5 b6 b7 :: bytesFromBits rest
  | [] => []
  | [_] => []
  | [_, _] => []
  | [_, _, _] => []
  | [_, _, _, _] => []
  | [_, _, _, _, _] => []
  | [_, _, _, _, _, _] => []
  | [_, _, _, _, _, _, _] => []

/-- `pixels_from_bits` (R248): exactly `height * width` bytes, truncated or zero-padded. -/
def pixelsFromBits (bits : List Bool) (height width : Nat) : List Byte :=
  let bytes := bytesFromBits bits
  bytes.take (height * width) ++ List.replicate (height * width - bytes.length) 0#8

/-- The two bits of a symbol code, the left digit first (R109, R227). -/
def bitsOfCode (c : SymbolCode) : List Bool := [c.getLsbD 1, c.getLsbD 0]

/-- The bit sequence of the detected codes (R227). -/
def bitsOfCodes (codes : List SymbolCode) : List Bool := codes.flatMap bitsOfCode

end Sys2Proof.Machine
end

