-- ==== Sys2Proof/Machine/Correlator.lean ====
section
/-! DEFINITION. The Marker Correlator (44_marker_correlator.md): a pure function of the normalised
capture and the template. -/

namespace Sys2Proof.Machine

variable {K : Type} [Field K]

/-- The inner product (R224), over the length of the shorter list. -/
def dot (a b : List K) : K := (List.zipWith (· * ·) a b).sum

/-- Valid-mode cross-correlation (R202), `L - MS + 1` values; empty where the capture is shorter than
the template (R203). -/
def correlation (x m : List K) : List K :=
  (List.range (x.length + 1 - m.length)).map fun k => dot (x.drop k) m

variable [LinearOrder K]

/-- The largest element of `first :: rest`. -/
def largest (first : K) (rest : List K) : K := rest.foldl max first

/-- The first index whose value exceeds seven tenths of the largest value (R204), none where there is
none or the list is empty (R203). -/
def firstCrossing (corr : List K) : Option Nat :=
  match corr with
  | [] => none
  | c :: rest => (c :: rest).findIdx? fun v => decide (7 * largest c rest < 10 * v)

/-- `locate(x, m)` (R200): `some k` for `Found(k)`, `none` for `NotFound`. -/
def locate (x m : List K) : Option Nat := firstCrossing (correlation x m)

end Sys2Proof.Machine
end

