-- ==== Sys2Proof/Machine/Demodulator.lean ====
section
/-! DEFINITION. The step of the DEM engine, `dem_complete`: a demodulation (45_demodulator.md) or the
pixel formatting of PIX_FMT (46_payload_codec.md R252), in one atomic step (R215). -/

namespace Sys2Proof.Machine

/-- The captured samples as signed integers (R79, R217). -/
def captured (s : State) : List ℤ := (List.range s.demNsamp.toNat).map fun i => (s.dpcm.read i).toInt

/-- The integer peak of the capture, 0 for an empty one (R217). -/
def capturedPeak (s : State) : Nat := (captured s).foldl (fun m v => max m v.natAbs) 0

/-- `span` (R222): the length of the region between the markers, 0 where `end <= start`. -/
def spanOf (s : State) (offset : Nat) : Nat :=
  let start : ℤ := offset + markerLen s
  let stop : ℤ := s.demNsamp.toNat - markerLen s - offset
  (max 0 (stop - start)).toNat

/-- `nwin` (R223). -/
def windowCount (s : State) (offset : Nat) : Nat := spanOf s offset / sps s

/-- `nbytes` (R228). -/
def byteCount (s : State) (offset : Nat) : Nat := 2 * windowCount s offset / 8

/-- A demodulation begins by invalidating the pixel array (R43, R215). -/
def invalidatePixels (s : State) : State := { s with pixCount := 0#32 }

/-- INCOMPLETE_WINDOW is raised where samples are left over (R223). -/
def flagLeftover (offset : Nat) (s : State) : State :=
  if spanOf s offset % sps s = 0 then s else raise .incompleteWindow s

/-- Success of a demodulation (R228, R230). -/
def finishDemod (bytes : List Byte) (nwin nbytes offset : Nat) (s : State) : State :=
  raise .demDone (lower .demBusy
    { s with
      dbyte := s.dbyte.store 0 bytes
      demNsym := BitVec.ofNat 32 nwin
      demNbits := BitVec.ofNat 32 (8 * nbytes)
      demOffset := BitVec.ofNat 32 offset
      demErr := 0#32
      pixCount := 0#32 })

section Values

variable {K : Type} [Field K] [LinearOrder K]

/-- The normalised capture `x` (R217). -/
def capture (s : State) : List K := (captured s).map fun v => (v : K) / (capturedPeak s : K)

/-- The samples of window `w` (R223). -/
def windowOf (x : List K) (start width w : Nat) : List K := (x.drop (start + w * width)).take width

/-- The detected code of a window: the least code of maximal score (R226). -/
def bestCode (score : SymbolCode → K) : SymbolCode :=
  if score 1#2 ≤ score 0#2 ∧ score 2#2 ≤ score 0#2 ∧ score 3#2 ≤ score 0#2 then 0#2
  else if score 2#2 ≤ score 1#2 ∧ score 3#2 ≤ score 1#2 then 1#2
  else if score 3#2 ≤ score 2#2 then 2#2
  else 3#2

/-- The codes of all windows, in order (R224 to R226). -/
def detectedCodes (T : Numeric K) (offset : Nat) (s : State) : List SymbolCode :=
  (List.range (windowCount s offset)).map fun w =>
    let window : List K := windowOf (capture s) (offset + markerLen s) (sps s) w
    bestCode fun c => dot window (symtone T s c)

/-- From the located offset to the result (R222 to R230). -/
def detectStage (T : Numeric K) (offset : Nat) (s : State) : State :=
  let flagged := flagLeftover offset s
  if s.config.capDbyte < byteCount s offset then faultDem .capacity flagged
  else
    finishDemod (bytesFromBits (bitsOfCodes (detectedCodes T offset s)))
      (windowCount s offset) (byteCount s offset) offset flagged

/-- The search for the leading marker and what follows from its answer (R220, R221). -/
def alignStage (T : Numeric K) (s : State) : State :=
  match locate (capture s) (marker T s) with
  | some offset => detectStage T offset s
  | none =>
    let flagged := raise .markerNotFound s
    if s.fallbackEn then detectStage T 0 (raise .degraded flagged)
    else faultDem .markerNotFound flagged

/-- `dem_complete` with `dem_op = DEMOD` under a given numeric profile (R215 to R218). -/
def demodulateIn (T : Numeric K) (s : State) : State :=
  let s := invalidatePixels s
  if cfgOk s = false then faultDem .configInvalid s
  else if s.config.capDpcm < s.demNsamp.toNat then faultDem .capacity s
  else if capturedPeak s = 0 then faultDem .zeroPeak s
  else alignStage T s

end Values

/-- The number of pixels asked for, an unbounded product (R252). -/
def pixelCount (s : State) : Nat := s.frameH.toNat * s.frameW.toNat

/-- The number of recovered bytes (R252). -/
def recoveredBytes (s : State) : Nat := s.demNbits.toNat / 8

/-- `dem_complete` with `dem_op = PIX` (R252). -/
def formatPixels (s : State) : State :=
  if s.config.capDbyte < pixelCount s then faultDem .capacity s
  else
    let padded :=
      { s with
        dbyte := s.dbyte.store (recoveredBytes s)
          (List.replicate (pixelCount s - recoveredBytes s) 0#8)
        pixCount := BitVec.ofNat 32 (pixelCount s)
        demErr := 0#32 }
    let flagged := if recoveredBytes s = pixelCount s then padded else raise .lenMismatch padded
    raise .demDone (lower .demBusy flagged)

/-- `dem_complete` under a given numeric profile (R215). -/
def demCompleteIn {K : Type} [Field K] [LinearOrder K] (T : Numeric K) (s : State) : State :=
  match s.demOp with
  | .demod => demodulateIn T s
  | .pix => formatPixels s

/-- `dem_complete` (R215) on the profile of the hardware. -/
def demComplete (s : State) : State :=
  letI := Config.num.field
  letI := Config.num.order
  demCompleteIn Config.num.numeric s

end Sys2Proof.Machine
end

