-- ==== Sys2Proof/Machine/Modulator.lean ====
section
/-! DEFINITION. The step of the MOD engine, `mod_complete` (43_modulator.md): checks, sequencing,
normalisation, quantisation, completion, all in one atomic step (R170). -/

namespace Sys2Proof.Machine

/-- The segment list of a frame (R176). -/
def segmentList (s : State) : List (BitVec 3) :=
  [0b100#3, 0b101#3] ++ (List.range (symbolCount s)).map (fun k => 0b0#1 ++ symbolAt s.mbyte k) ++
    [0b100#3, 0b101#3]

/-- The sequencer runs the descriptors in list order (R176) until one ends the operation by a fault,
which clears MOD_BUSY (R177, R300). -/
def runSegments : List (BitVec 3) → State → State
  | [], s => s
  | d :: rest, s =>
    let s' := runSegment (decodeSegment d) s
    if s'.busy .mod then runSegments rest s' else s'

section Values

variable {K : Type} [Field K] [LinearOrder K] [FloorRing K]

/-- The largest magnitude of a list, 0 for an empty one (R180). -/
def peakOf (xs : List K) : K := xs.foldl (fun m x => max m |x|) 0

/-- `trunc`: toward zero (R7). -/
def truncate (v : K) : ℤ := if 0 ≤ v then ⌊v⌋ else ⌈v⌉

/-- The quantiser `Q` (R182) with the rounding Q_ROUND. -/
def quantise (T : Numeric K) (q : QRound) (v : K) : ℤ :=
  match q with
  | .trunc => truncate v
  | .other => T.roundOther v

/-- The quantised frame (R180, R182): every sample scaled so that the peak maps to 32767. -/
def quantisedFrame (T : Numeric K) (q : QRound) (buf : List K) : List Pcm :=
  buf.map fun b => BitVec.ofInt 16 (quantise T q (b * 32767 / peakOf buf))

/-- Success of a modulation (R185). -/
def finishMod (frame : List Pcm) (total : Nat) (s : State) : State :=
  raise .modDone (lower .modBusy (idleSequencer
    { s with mpcm := s.mpcm.store 0 frame, modNsamp := BitVec.ofNat 32 total, modErr := 0#32 }))

/-- Normalisation, quantisation and completion of a rendered frame (R180 to R185). -/
def quantiseStage (T : Numeric K) (s : State) : State :=
  let values := s.buf.map (ToneSample.eval T)
  if peakOf values = 0 then faultMod .zeroPeak s
  else finishMod (quantisedFrame T s.config.qRound values) (frameLen s) s

/-- The sequencer renders the frame into an empty buffer from position (0, 0) (R56, R170). -/
def renderStage (s : State) : State := runSegments (segmentList s) (idleSequencer s)

/-- `mod_complete` under a given numeric profile (R170): at most one fault, in the order of R308. -/
def modCompleteIn (T : Numeric K) (s : State) : State :=
  if s.modNbits.toNat % 2 = 1 then faultMod .invalidPayloadLength s
  else if cfgOk s = false then faultMod .configInvalid s
  else if s.config.capMbyte < payloadBytes s ∨ s.config.capMpcm < frameLen s then
    faultMod .capacity s
  else
    let r := renderStage s
    if r.busy .mod then quantiseStage T r else r

end Values

/-- `mod_complete` (R170) on the profile of the hardware. -/
def modComplete (s : State) : State :=
  letI := Config.num.field
  letI := Config.num.order
  letI := Config.num.floor
  modCompleteIn Config.num.numeric s

end Sys2Proof.Machine
end

