-- ==== Sys2Proof/Machine/Fetch.lean ====
section
/-! DEFINITION. Whose step is next, and which instruction word it runs. The three agents' steps form one
total order (R94); the part of it that is given stands in the state, and a free value gives the rest. -/

namespace Sys2Proof.Machine

/-- An agent has a step enabled (R12, R340): the host a transaction left, an engine an operation
pending; none while `rst` is asserted. -/
def enabled (s : State) : Agent → Bool
  | .host => !s.rst && !s.script.isEmpty
  | .mod => !s.rst && s.busy .mod
  | .dem => !s.rst && s.busy .dem

/-- The free choice among the enabled agents (R94): the free value's agent where that one is enabled,
else the first enabled one. No agent is chosen that has no step, so every run is fair (R360). -/
def freeChoice (s : State) : Option Agent :=
  if enabled s (Config.freeAgent s.tick) then some (Config.freeAgent s.tick)
  else [Agent.host, Agent.mod, Agent.dem].find? (enabled s)

/-- The next event and the state after it has been taken from the order: the given order first, then
the free choice; none where the run has ended (R362). -/
def nextTurn (s : State) : Option (Turn × State) :=
  match s.turns with
  | t :: rest => some (t, { s with turns := rest })
  | [] => (freeChoice s).map fun a => (.agent a, { s with tick := s.tick + 1 })

/-- The word of the direct port. -/
def Direct.word : Direct → InstrWord
  | .cmd w => .cmd w
  | .seg d => .seg d

/-- The instruction word the next step runs, and the state once it has been fetched: the word on the
direct port, or the host's next transaction where the next event is the host's turn. None while `rst`
is asserted (R64, R340). -/
def fetch (s : State) : Option (InstrWord × State) :=
  if s.rst then none
  else
    match s.direct with
    | some d => some (d.word, { s with direct := none })
    | none =>
      match nextTurn s with
      | some (.agent .host, s') =>
        match s'.script with
        | t :: rest => some (.bus t, { s' with script := rest })
        | [] => none
      | some (.agent .mod, _) => none
      | some (.agent .dem, _) => none
      | some (.rstHigh, _) => none
      | some (.rstLow, _) => none
      | none => none

/-- What an event does that runs no fetched instruction: an engine's completion step where it is
enabled (R170, R215), a change of `rst` (R340); the turn of an agent without a step passes. -/
def takeTurn (t : Turn) (s : State) : State :=
  match t with
  | .agent .host => s
  | .agent .mod => if enabled s .mod then modComplete s else s
  | .agent .dem => if enabled s .dem then demComplete s else s
  | .rstHigh => assertReset s
  | .rstLow => releaseReset s

/-- The instruction word `w` placed where the next step fetches: a bus transaction at the head of the
host's script with the host's turn next, any other word on the direct port; `rst` released, since no
instruction runs while it is asserted. -/
def placeWord (w : InstrWord) (s : State) : State :=
  match w with
  | .bus t =>
    { s with rst := false, direct := none, turns := .agent .host :: s.turns, script := t :: s.script }
  | .cmd c => { s with rst := false, direct := some (.cmd c) }
  | .seg d => { s with rst := false, direct := some (.seg d) }

end Sys2Proof.Machine
end

