-- ==== Sys2Proof/Machine/Step.lean ====
section
/-! DEFINITION. One step of the machine: one event of the total order of R94. -/

namespace Sys2Proof.Machine

/-- One step: the fetched instruction where there is one, else the next event; a fault where the run has
ended (R362). -/
def step (s : State) : Host.Outcome State Fault Refusal :=
  match fetch s with
  | some (w, s') => exec (decode w) s'
  | none =>
    match nextTurn s with
    | some (t, s') => .next (takeTurn t s')
    | none => .fault .runEnded

/-- The instruction whose table row has `nbits` bits and whose bits are `w`, placed where the next step
fetches; the state itself where no instruction word has these bits. -/
def State.withFetchWord (s : State) (nbits w : Nat) : State :=
  match wordOfBits nbits w with
  | .ok word => placeWord word s
  | .error _ => s

end Sys2Proof.Machine
end

