-- ==== Sys2Proof/Safety.lean ====
section
/-! DEFINITION. The terms in which claims about the machine are stated: the invariant of its states, the
frame of a modulation, the configuration's validity spelled out, the reference numeric profile. -/

namespace Sys2Proof.Machine

/-- Every listed cell lies below a capacity (R79, R87). -/
def Memory.within {w : Nat} (m : Memory w) (cap : Nat) : Prop := ∀ p ∈ m.cells, p.1 < cap

/-- What every step keeps: legal parameters; reserved register bits 0 (R112); memories canonical and
inside their capacities (R79); error codes of R290; result lengths that fit (R38, R40, R43) and agree
(R41); and, while `rst` is asserted, the reset state (R64). -/
structure State.Inv (s : State) : Prop where
  config : s.config.wf
  statusReserved : s.status &&& ~~~0x1FFF#32 = 0#32
  ctrlReserved : s.ctrl &&& ~~~0x1#32 = 0#32
  irqEnReserved : s.irqEn &&& ~~~0x1FFC#32 = 0#32
  mbyteWf : s.mbyte.wf
  mpcmWf : s.mpcm.wf
  dpcmWf : s.dpcm.wf
  dbyteWf : s.dbyte.wf
  mbyteWithin : s.mbyte.within s.config.capMbyte
  mpcmWithin : s.mpcm.within s.config.capMpcm
  dpcmWithin : s.dpcm.within s.config.capDpcm
  dbyteWithin : s.dbyte.within s.config.capDbyte
  modErrCode : s.modErr.toNat ∈ [0, 1, 3, 4, 5, 6]
  demErrCode : s.demErr.toNat ∈ [0, 2, 3, 4, 5]
  modNsampFits : s.modNsamp.toNat ≤ s.config.capMpcm
  demNbitsBytes : s.demNbits.toNat % 8 = 0
  demNbitsFits : s.demNbits.toNat / 8 ≤ s.config.capDbyte
  demNsymAgrees : s.demNbits.toNat ≤ 2 * s.demNsym.toNat ∧ 2 * s.demNsym.toNat ≤ s.demNbits.toNat + 6
  pixCountFits : s.pixCount.toNat ≤ s.config.capDbyte
  heldInReset : s.rst = true → resetRegisters s = s

/-- The conditions of R52, each as the rule writes it. -/
abbrev ConfigValid (s : State) : Prop :=
  1 ≤ s.sampleRate.toNat ∧ 1 ≤ s.baudRate.toNat ∧ 1 ≤ s.sampleRate.toNat / s.baudRate.toNat ∧
  1 ≤ s.sampleRate.toNat * s.markerDurUs.toNat / 2000000 ∧
  s.toneFreq0.toNat < s.toneFreq1.toNat ∧ s.toneFreq1.toNat < s.toneFreq2.toNat ∧
  s.toneFreq2.toNat < s.toneFreq3.toNat

/-- The frame of R178 as plain data: the marker, the payload's symbols in order, the marker. -/
def frameSamples (s : State) : List ToneSample :=
  markerSamples s ++
    (List.range (symbolCount s)).flatMap (fun k => symbolSamples s (symbolAt s.mbyte k)) ++
    markerSamples s

/-- How much a run can still do: every step of a run makes it smaller (R360, R362). -/
def State.pending (s : State) : Nat :=
  2 * s.script.length + s.turns.length + (if s.direct.isSome then 2 else 0) +
    (if s.busy .mod then 1 else 0) + (if s.busy .dem then 1 else 0)

/-- The reference numeric profile NUM_IDEAL (R8): the real numbers, sine and cosine of a number of
turns. The machine runs on `Config.num`, of which nothing is known; claims that the spec makes of
NUM_IDEAL alone are stated on this one. -/
noncomputable def Numeric.ideal : Numeric ℝ where
  sin1 q := Real.sin (2 * Real.pi * (q : ℝ))
  cos1 q := Real.cos (2 * Real.pi * (q : ℝ))
  roundOther v := if 0 ≤ v then ⌊v⌋ else ⌈v⌉

end Sys2Proof.Machine
end

