-- ==== Sys2Proof/Certificates/Slice0/Obligations.lean ====
section
/-! DEFINITION. The statements for the provers. Status words are written out from R25: MOD_BUSY 0x1,
DEM_BUSY 0x2, MOD_DONE 0x4, DEM_DONE 0x8, MOD_FAULT 0x10, DEM_FAULT 0x20, MARKER_NOT_FOUND 0x40,
DEGRADED 0x80, INCOMPLETE_WINDOW 0x100, LEN_MISMATCH 0x200, BUSY_VIOLATION 0x400, ILLEGAL_CMD 0x800,
BUS_ERR 0x1000. A state written `{ s with … }` says that every field not named is that of `s`. -/

open Sys2Proof Sys2Proof.Machine

/-! ### Encodings -/

/-- Decoding the word of a well-formed instruction gives the instruction back, whatever its operands
(30_encoding.md). -/
def Obligations.DecodeOfEncodeIsTheInstruction : Prop :=
  ∀ i : Instr, i.wellFormed = true → decode (encode i) = i

/-- Every word decodes to a well-formed instruction, and encoding that gives the word back, but for the
write-data bits of a read: they are not decoded (R101), and that the encoder writes 0 there, as vector
V-B1 does, is the model's choice (log entry 13). -/
def Obligations.EncodeOfDecodeIsTheWord : Prop :=
  (∀ w : InstrWord, (decode w).wellFormed = true) ∧
  (∀ t : BitVec 57, t.getLsbD 56 = true → encode (decode (.bus t)) = .bus t) ∧
  (∀ t : BitVec 57, t.getLsbD 56 = false →
    encode (decode (.bus t)) = .bus (t &&& ~~~0xFFFFFFFF#57)) ∧
  (∀ w : Word, encode (decode (.cmd w)) = .cmd w) ∧
  (∀ d : BitVec 3, encode (decode (.seg d)) = .seg d)

/-- Words written out by hand from R100, R104, R107 and the vectors V-B1, under the widths of their formats
(R111), decode to what they stand for. -/
def Obligations.SpecWordsDecode : Prop :=
  decodeTableWord 57 0x100000800001F40 = some (.wr 0x0#4 0x00008#20 0x00001F40#32) ∧
  decodeTableWord 57 0x020000100000000 = some (.rd 0x2#4 0x00001#20) ∧
  decodeTableWord 57 0x1300003FFFFFFFB = some (.wr 0x3#4 0x00003#20 0xFFFFFFFB#32) ∧
  decodeTableWord 32 0x0000000F = some .softReset ∧
  decodeTableWord 32 0x00000101 = some (.illegalCmd 0x000001#24 0x01#8) ∧
  decodeTableWord 3 0b010 = some .sym10 ∧
  decodeTableWord 3 0b101 = some .mhi ∧
  decodeTableWord 3 0b111 = some (.segReserved 1#1)

/-! ### Steps, runs, reset -/

/-- A step runs the fetched word's instruction: the host's next transaction, on a given turn of the host or
where no turn is given and the free choice is the host, or the word on the direct port. Nothing else
happens around it but that the word, and the given turn or the free choice, are used up.
Who moves next is the model's own order (log entry 1), the script and the direct port are its own
fields (log entries 2 and 9). -/
def Obligations.StepRunsTheFetchedInstruction : Prop :=
  (∀ (s : State) (t : BitVec 57) (rest : List (BitVec 57)) (later : List Turn),
    s.rst = false → s.direct = none → s.turns = .agent .host :: later → s.script = t :: rest →
    step s = exec (decode (.bus t)) { s with turns := later, script := rest }) ∧
  (∀ (s : State) (t : BitVec 57) (rest : List (BitVec 57)),
    s.rst = false → s.direct = none → s.turns = [] → freeChoice s = some .host →
    s.script = t :: rest →
    step s = exec (decode (.bus t)) { s with script := rest, tick := s.tick + 1 }) ∧
  (∀ (s : State) (w : Word), s.rst = false → s.direct = some (.cmd w) →
    step s = exec (decode (.cmd w)) { s with direct := none }) ∧
  (∀ (s : State) (d : BitVec 3), s.rst = false → s.direct = some (.seg d) →
    step s = exec (decode (.seg d)) { s with direct := none })

/-- On a given turn of a busy engine, or where no turn is given and the free choice is an engine (which is
then busy), a step is that engine's whole operation on the hardware's numeric profile (R170, R215: one
atomic step).
The order of turns is the model's own field (log entry 1), the profile a
free value (log entry 3). -/
def Obligations.StepOfABusyEngineIsItsCompletion : Prop :=
  ∀ s : State, s.rst = false → s.direct = none →
    let modEnds (u : State) : State := @modCompleteIn Config.num.Num Config.num.field Config.num.order
      Config.num.floor Config.num.numeric u
    let demEnds (u : State) : State := @demCompleteIn Config.num.Num Config.num.field Config.num.order
      Config.num.numeric u
    (∀ later, s.turns = .agent .mod :: later → s.status.getLsbD 0 = true →
      step s = .next (modEnds { s with turns := later })) ∧
    (∀ later, s.turns = .agent .dem :: later → s.status.getLsbD 1 = true →
      step s = .next (demEnds { s with turns := later })) ∧
    (s.turns = [] → freeChoice s = some .mod → s.status.getLsbD 0 = true ∧
      step s = .next (modEnds { s with tick := s.tick + 1 })) ∧
    (s.turns = [] → freeChoice s = some .dem → s.status.getLsbD 1 = true ∧
      step s = .next (demEnds { s with tick := s.tick + 1 }))

/-- No step is ever refused, and a step faults exactly where the run has ended: no event is given and
either `rst` holds the block, or nothing is fetched directly, the script is empty and both engines are
idle (R362, R340).
That the end of a run is a fault, and that a reset
nothing ever releases ends one, is the model's choice (log entries 7 and 11). -/
def Obligations.StepStopsExactlyAtTheEndOfARun : Prop :=
  ∀ s : State,
    (∀ r, step s ≠ .refused r) ∧
    ((∃ f, step s = .fault f) ↔
      s.turns = [] ∧ (s.rst = true ∨ (s.direct = none ∧ s.script = [] ∧
        s.status.getLsbD 0 = false ∧ s.status.getLsbD 1 = false)))

/-- Every run ends (R360: a busy engine eventually completes; R362: the script is finite), after no
more steps than `State.pending` counts.
The count and the fault at
the end are the model's (log entries 1 and 11). -/
def Obligations.EveryRunEnds : Prop :=
  ∀ s : State, ∃ n, n ≤ s.pending + 1 ∧
    Host.Core.run Sys2Proof.core n s = .fault Fault.runEnded

/-- The invariant holds right after reset. -/
def Obligations.ResetStateMeetsTheInvariant : Prop := State.reset.Inv

/-- Every step keeps the invariant, from every state that meets it.
Its clauses on the form of a memory and on `rst` held high
speak of the model's own layout (log entries 6 and 7). -/
def Obligations.StepKeepsTheInvariant : Prop :=
  ∀ s t : State, s.Inv → step s = .next t → t.Inv

/-- No step changes the implementation's parameters (R20: they are not state). -/
def Obligations.StepKeepsTheParameters : Prop :=
  ∀ s t : State, step s = .next t → t.config = s.config

/-- While `rst` is asserted no instruction and no engine moves: a step changes nothing but the given
order of events, unless its event moves `rst` itself (R64, R340 (a)).
The order of events is the model's own field (log entries 1 and 7). -/
def Obligations.NothingMovesDuringReset : Prop :=
  ∀ (s : State) (a : Agent) (later : List Turn), s.rst = true → s.turns = .agent a :: later →
    step s = .next { s with turns := later }

/-- When `rst` rises and falls again, the registers and `dem_op` hold the values of R62, `irq` is 0,
and every memory cell is unspecified anew (R340, R341). The environment's fields are kept, which is
the model's choice (log entry 8).
The numbers of the new
unspecified contents are the model's too (log entry 6). -/
def Obligations.ResetPulseLeavesTheResetState : Prop :=
  ∀ (s : State) (later : List Turn), s.rst = false → s.direct = none →
    s.turns = .rstHigh :: .rstLow :: later →
    ∃ t, Host.Core.run Sys2Proof.core 2 s = .next t ∧
      t = { State.reset with
        mbyte := { gen := s.nextGen, cells := [] }
        mpcm := { gen := s.nextGen + 1, cells := [] }
        dpcm := { gen := s.nextGen + 2, cells := [] }
        dbyte := { gen := s.nextGen + 3, cells := [] }
        nextGen := s.nextGen + 4
        config := s.config, script := s.script, readLog := s.readLog, turns := later
        tick := s.tick } ∧
      t.irq = false ∧ cfgOk t = false

/-! ### The bus -/

/-- A register read returns the register's value and changes nothing else, in every state, busy or not
(R266, R112).
A read's data are returned at the end of `readLog`, the model's own record (log entry 2). -/
def Obligations.RegisterReadReturnsItsValue : Prop :=
  ∀ s : State,
    let reads (index : BitVec 20) (v : Word) : Prop :=
      exec (.rd 0x0#4 index) s = .next { s with readLog := s.readLog ++ [v] }
    reads 0x00#20 0x46534B31#32 ∧ reads 0x01#20 0#32 ∧
    reads 0x02#20 (s.ctrl &&& 0x1#32) ∧ reads 0x03#20 (s.status &&& 0x1FFF#32) ∧
    reads 0x04#20 (s.irqEn &&& 0x1FFC#32) ∧ reads 0x05#20 s.modErr ∧ reads 0x06#20 s.demErr ∧
    reads 0x08#20 s.sampleRate ∧ reads 0x09#20 s.baudRate ∧ reads 0x0A#20 s.carrierFreq ∧
    reads 0x0B#20 s.markerFreq ∧ reads 0x0C#20 s.markerDurUs ∧ reads 0x0D#20 s.frameH ∧
    reads 0x0E#20 s.frameW ∧ reads 0x10#20 s.toneFreq0 ∧ reads 0x11#20 s.toneFreq1 ∧
    reads 0x12#20 s.toneFreq2 ∧ reads 0x13#20 s.toneFreq3 ∧ reads 0x18#20 s.modNbits ∧
    reads 0x19#20 s.modNsamp ∧ reads 0x1A#20 s.demNsamp ∧ reads 0x1B#20 s.demNbits ∧
    reads 0x1C#20 s.demNsym ∧ reads 0x1D#20 s.demOffset ∧ reads 0x1E#20 s.pixCount ∧
    reads 0x20#20 (if s.baudRate.toNat = 0 then 0#32
      else BitVec.ofNat 32 (min (2 ^ 32 - 1) (s.sampleRate.toNat / s.baudRate.toNat))) ∧
    reads 0x21#20 (BitVec.ofNat 32 (min (2 ^ 32 - 1)
      (2 * (s.sampleRate.toNat * s.markerDurUs.toNat / 2000000))))

/-- The derived registers are computed at the read and saturate at 2^32 - 1 (R46, R47, R11).
A read's data are returned at the end of `readLog`, the model's own record (log entry 2). -/
def Obligations.DerivedRegistersAreComputedAtTheRead : Prop :=
  ∀ s : State,
    exec (.rd 0x0#4 0x20#20) s = .next { s with readLog := s.readLog ++
      [if s.baudRate.toNat = 0 then 0#32
       else BitVec.ofNat 32 (min (2 ^ 32 - 1) (s.sampleRate.toNat / s.baudRate.toNat))] } ∧
    exec (.rd 0x0#4 0x21#20) s = .next { s with readLog := s.readLog ++
      [BitVec.ofNat 32 (min (2 ^ 32 - 1)
        (2 * (s.sampleRate.toNat * s.markerDurUs.toNat / 2000000)))] }

/-- ID reads its constant always; a write to it is dropped with BUS_ERR (R22).
A read's data are returned at the end of `readLog`, the model's own record (log entry 2). -/
def Obligations.IdReadsItsConstantAndDropsWrites : Prop :=
  ∀ (s : State) (v : Word),
    exec (.rd 0x0#4 0x00#20) s = .next { s with readLog := s.readLog ++ [0x46534B31#32] } ∧
    exec (.wr 0x0#4 0x00#20 v) s = .next { s with status := s.status ||| 0x1000#32 }

/-- The refusals with BUS_ERR (R264): invalid addresses in both directions, writes to read-only
locations; nothing but the flag and, for a read, the returned 0. A read of CMD is not refused.
A read's data are returned at the end of `readLog`, the model's own record (log entry 2). -/
def Obligations.InvalidAccessIsRefusedWithBusErr : Prop :=
  ∀ (s : State) (region : BitVec 4) (index : BitVec 20) (v : Word),
    let refusedRead : Prop := exec (.rd region index) s =
      .next { s with status := s.status ||| 0x1000#32, readLog := s.readLog ++ [0#32] }
    let refusedWrite : Prop := exec (.wr region index v) s =
      .next { s with status := s.status ||| 0x1000#32 }
    (5 ≤ region.toNat → refusedRead ∧ refusedWrite) ∧
    (region = 0x0#4 → 0x40 ≤ index.toNat ∨ index.toNat ∈ [0x07, 0x0F, 0x14, 0x15, 0x16, 0x17, 0x1F] ∨
      (0x22 ≤ index.toNat ∧ index.toNat ≤ 0x3F) → refusedRead ∧ refusedWrite) ∧
    (region = 0x1#4 → s.config.capMbyte ≤ index.toNat → refusedRead ∧ refusedWrite) ∧
    (region = 0x2#4 → s.config.capMpcm ≤ index.toNat → refusedRead ∧ refusedWrite) ∧
    (region = 0x3#4 → s.config.capDpcm ≤ index.toNat → refusedRead ∧ refusedWrite) ∧
    (region = 0x4#4 → s.config.capDbyte ≤ index.toNat → refusedRead ∧ refusedWrite) ∧
    (region = 0x2#4 ∨ region = 0x4#4 → refusedWrite) ∧
    (region = 0x0#4 → index.toNat ∈ [0x00, 0x05, 0x06, 0x19, 0x1B, 0x1C, 0x1D, 0x1E, 0x20, 0x21] →
      refusedWrite) ∧
    (region = 0x0#4 → index = 0x01#20 →
      exec (.rd region index) s = .next { s with readLog := s.readLog ++ [0#32] })

/-- A read of a memory cell whose owner is idle returns the cell, a byte zero-extended and a sample
sign-extended, and changes nothing (R260, R72, R77).
A read's data are returned at the end of `readLog`, the model's own record (log entry 2). -/
def Obligations.MemoryReadWidensTheCell : Prop :=
  ∀ (s : State) (index : BitVec 20),
    let reads (region : BitVec 4) (v : Word) : Prop :=
      exec (.rd region index) s = .next { s with readLog := s.readLog ++ [v] }
    (s.status.getLsbD 0 = false → index.toNat < s.config.capMbyte →
      ∃ v, reads 0x1#4 v ∧ v.toNat = (s.mbyte.read index.toNat).toNat) ∧
    (s.status.getLsbD 0 = false → index.toNat < s.config.capMpcm →
      ∃ v, reads 0x2#4 v ∧ v.toInt = (s.mpcm.read index.toNat).toInt) ∧
    (s.status.getLsbD 1 = false → index.toNat < s.config.capDpcm →
      ∃ v, reads 0x3#4 v ∧ v.toInt = (s.dpcm.read index.toNat).toInt) ∧
    (s.status.getLsbD 1 = false → index.toNat < s.config.capDbyte →
      ∃ v, reads 0x4#4 v ∧ v.toNat = (s.dbyte.read index.toNat).toNat)

/-- A write to a cell of MBYTE or DPCM whose owner is idle stores the low byte, or the low 16 bits,
there and nowhere else (R261, R72). -/
def Obligations.MemoryWriteNarrowsIntoOneCell : Prop :=
  ∀ (s : State) (index : BitVec 20) (v : Word),
    (s.status.getLsbD 0 = false → index.toNat < s.config.capMbyte →
      ∃ t, exec (.wr 0x1#4 index v) s = .next t ∧ t = { s with mbyte := t.mbyte } ∧
        (t.mbyte.read index.toNat).toNat = v.toNat % 2 ^ 8 ∧
        ∀ a, a ≠ index.toNat → t.mbyte.read a = s.mbyte.read a) ∧
    (s.status.getLsbD 1 = false → index.toNat < s.config.capDpcm →
      ∃ t, exec (.wr 0x3#4 index v) s = .next t ∧ t = { s with dpcm := t.dpcm } ∧
        (t.dpcm.read index.toNat).toNat = v.toNat % 2 ^ 16 ∧
        ∀ a, a ≠ index.toNat → t.dpcm.read a = s.dpcm.read a)

/-- An access to a memory whose engine is busy is refused: read data 0, write dropped, BUSY_VIOLATION;
but a range or read-only violation raises BUS_ERR only (R91).
A read's data are returned at the end of `readLog`, the model's own record (log entry 2). -/
def Obligations.BusyMemoryAccessIsRefused : Prop :=
  ∀ (s : State) (index : BitVec 20) (v : Word),
    let refusedRead (region : BitVec 4) (flag : Word) : Prop := exec (.rd region index) s =
      .next { s with status := s.status ||| flag, readLog := s.readLog ++ [0#32] }
    let refusedWrite (region : BitVec 4) (flag : Word) : Prop := exec (.wr region index v) s =
      .next { s with status := s.status ||| flag }
    (s.status.getLsbD 0 = true →
      (if index.toNat < s.config.capMbyte
        then refusedRead 0x1#4 0x400#32 ∧ refusedWrite 0x1#4 0x400#32
        else refusedRead 0x1#4 0x1000#32 ∧ refusedWrite 0x1#4 0x1000#32) ∧
      (if index.toNat < s.config.capMpcm then refusedRead 0x2#4 0x400#32
        else refusedRead 0x2#4 0x1000#32) ∧
      refusedWrite 0x2#4 0x1000#32) ∧
    (s.status.getLsbD 1 = true →
      (if index.toNat < s.config.capDpcm
        then refusedRead 0x3#4 0x400#32 ∧ refusedWrite 0x3#4 0x400#32
        else refusedRead 0x3#4 0x1000#32 ∧ refusedWrite 0x3#4 0x1000#32) ∧
      (if index.toNat < s.config.capDbyte then refusedRead 0x4#4 0x400#32
        else refusedRead 0x4#4 0x1000#32) ∧
      refusedWrite 0x4#4 0x1000#32)

/-- Repeating a read, with nothing between, returns the same data again (R77).
A read's data are returned at the end of `readLog`, the model's own record (log entry 2). -/
def Obligations.RepeatedReadReturnsTheSameData : Prop :=
  ∀ (s t : State) (region : BitVec 4) (index : BitVec 20), exec (.rd region index) s = .next t →
    ∃ v u, t.readLog = s.readLog ++ [v] ∧ exec (.rd region index) t = .next u ∧
      u.readLog = s.readLog ++ [v, v] ∧ { u with readLog := t.readLog } = t

/-- A host write to an unlocked register stores the value, its implemented bits for CTRL and IRQ_EN,
and nothing else (R263, R24, R26). MOD_NBITS is locked by MOD alone and DEM_NSAMP by DEM alone (R92, R93),
where R350 sums the locks up as held by either engine (log entry 16). -/
def Obligations.RegisterWriteStoresTheValue : Prop :=
  ∀ (s : State) (v : Word),
    (s.status.getLsbD 0 = false → s.status.getLsbD 1 = false →
      exec (.wr 0x0#4 0x02#20 v) s = .next { s with ctrl := v &&& 0x1#32 } ∧
      exec (.wr 0x0#4 0x08#20 v) s = .next { s with sampleRate := v } ∧
      exec (.wr 0x0#4 0x09#20 v) s = .next { s with baudRate := v } ∧
      exec (.wr 0x0#4 0x0A#20 v) s = .next { s with carrierFreq := v } ∧
      exec (.wr 0x0#4 0x0B#20 v) s = .next { s with markerFreq := v } ∧
      exec (.wr 0x0#4 0x0C#20 v) s = .next { s with markerDurUs := v } ∧
      exec (.wr 0x0#4 0x0D#20 v) s = .next { s with frameH := v } ∧
      exec (.wr 0x0#4 0x0E#20 v) s = .next { s with frameW := v } ∧
      exec (.wr 0x0#4 0x10#20 v) s = .next { s with toneFreq0 := v } ∧
      exec (.wr 0x0#4 0x11#20 v) s = .next { s with toneFreq1 := v } ∧
      exec (.wr 0x0#4 0x12#20 v) s = .next { s with toneFreq2 := v } ∧
      exec (.wr 0x0#4 0x13#20 v) s = .next { s with toneFreq3 := v }) ∧
    (s.status.getLsbD 0 = false →
      exec (.wr 0x0#4 0x18#20 v) s = .next { s with modNbits := v }) ∧
    (s.status.getLsbD 1 = false →
      exec (.wr 0x0#4 0x1A#20 v) s = .next { s with demNsamp := v }) ∧
    exec (.wr 0x0#4 0x04#20 v) s = .next { s with irqEn := v &&& 0x1FFC#32 } ∧
    exec (.wr 0x0#4 0x03#20 v) s =
      .next { s with status := s.status &&& ~~~(v &&& 0x1FFC#32) }

/-- The register lock (R92): a locked register keeps its value, BUSY_VIOLATION is raised, and nothing
else happens. -/
def Obligations.LockedRegisterWriteIsDropped : Prop :=
  ∀ (s : State) (v : Word) (index : BitVec 20),
    let dropped : Prop := exec (.wr 0x0#4 index v) s =
      .next { s with status := s.status ||| 0x400#32 }
    (s.status.getLsbD 0 = true ∨ s.status.getLsbD 1 = true →
      index.toNat ∈ [0x02, 0x08, 0x09, 0x0A, 0x0B, 0x0C, 0x0D, 0x0E, 0x10, 0x11, 0x12, 0x13] →
      dropped) ∧
    (s.status.getLsbD 0 = true → index = 0x18#20 → dropped) ∧
    (s.status.getLsbD 1 = true → index = 0x1A#20 → dropped)

/-- A write to CMD runs the instruction its word decodes to, at any time; CMD reads 0 with no flag
(R23, R93).
A read's data are returned at the end of `readLog`, the model's own record (log entry 2). -/
def Obligations.WriteToCmdRunsTheCommandWord : Prop :=
  ∀ (s : State) (v : Word),
    exec (.wr 0x0#4 0x01#20 v) s = exec (decode (.cmd v)) s ∧
    exec (.rd 0x0#4 0x01#20) s = .next { s with readLog := s.readLog ++ [0#32] }

/-- What the host's transactions leave while an engine is busy: everything that engine reads, so that its
result is that of its start, whatever the host does in between, but for SOFT_RESET (R12, R90). -/
def Obligations.HostCannotChangeABusyEnginesResult : Prop :=
  ∀ (s t : State) (i : Instr),
    ((∃ region index, i = .rd region index) ∨
      (∃ region index v, i = .wr region index v ∧
        ¬(region = 0x0#4 ∧ index = 0x01#20 ∧ v = 0x0000000F#32))) →
    exec i s = .next t →
    (s.status.getLsbD 0 = true →
      t.status.getLsbD 0 = true ∧
      (modComplete t).mpcm = (modComplete s).mpcm ∧
      (modComplete t).modNsamp = (modComplete s).modNsamp ∧
      (modComplete t).modErr = (modComplete s).modErr) ∧
    (s.status.getLsbD 1 = true →
      t.status.getLsbD 1 = true ∧
      (demComplete t).dbyte = (demComplete s).dbyte ∧
      (demComplete t).demNbits = (demComplete s).demNbits ∧
      (demComplete t).demNsym = (demComplete s).demNsym ∧
      (demComplete t).demOffset = (demComplete s).demOffset ∧
      (demComplete t).pixCount = (demComplete s).pixCount ∧
      (demComplete t).demErr = (demComplete s).demErr)

/-! ### Commands -/

/-- NOP changes nothing, in every state (R270). -/
def Obligations.NopChangesNothing : Prop :=
  ∀ s : State, exec .nop s = .next s ∧ exec (.wr 0x0#4 0x01#20 0x00000000#32) s = .next s

/-- MOD_START makes an idle MOD engine busy, with the sequencer at (0, 0) and an empty frame buffer; a
busy one drops the command with BUSY_VIOLATION. Nothing is checked and no flag is cleared (R271).
The empty buffer of an engine that has not stepped is the
model's (log entry 10). -/
def Obligations.ModStartMakesModBusy : Prop :=
  ∀ s : State,
    exec .modStart s = .next
      (if s.status.getLsbD 0 then { s with status := s.status ||| 0x400#32 }
       else { s with status := s.status ||| 0x1#32, seqSeg := 0, seqN := 0, buf := [] })

/-- DEM_START makes an idle DEM engine busy with a demodulation; a busy one drops it with
BUSY_VIOLATION (R272). -/
def Obligations.DemStartMakesDemBusy : Prop :=
  ∀ s : State,
    exec .demStart s = .next
      (if s.status.getLsbD 1 then { s with status := s.status ||| 0x400#32 }
       else { s with status := s.status ||| 0x2#32, demOp := .demod })

/-- PIX_FMT makes an idle DEM engine busy with a pixel formatting; a busy one drops it with
BUSY_VIOLATION (R273). -/
def Obligations.PixFmtMakesDemBusy : Prop :=
  ∀ s : State,
    exec .pixFmt s = .next
      (if s.status.getLsbD 1 then { s with status := s.status ||| 0x400#32 }
       else { s with status := s.status ||| 0x2#32, demOp := .pix })

/-- SOFT_RESET: the registers and `dem_op` of R62, both engines idle, no flag, `irq` 0; memories kept but
MPCM unspecified if MOD was busy and DBYTE if DEM was (R274).
What is kept of the environment and the numbers of unspecified contents are the
model's choice (log entries 6 and 8). -/
def Obligations.SoftResetLeavesTheResetRegisters : Prop :=
  ∀ s : State, ∃ t, exec .softReset s = .next t ∧
    t = { State.reset with
      mbyte := s.mbyte
      mpcm := if s.status.getLsbD 0 then { gen := s.nextGen, cells := [] } else s.mpcm
      dpcm := s.dpcm
      dbyte := if s.status.getLsbD 1 then { gen := s.nextGen + 1, cells := [] } else s.dbyte
      rst := s.rst, config := s.config, script := s.script, readLog := s.readLog
      turns := s.turns, direct := s.direct, tick := s.tick, nextGen := s.nextGen + 2 } ∧
    t.irq = false ∧ enabled t .mod = false ∧ enabled t .dem = false

/-- Every command word outside the table of R104 decodes to ILLEGAL_CMD, and running it raises
ILLEGAL_CMD and does nothing else (R105, R276). -/
def Obligations.IllegalCommandOnlyRaisesItsFlag : Prop :=
  ∀ (s : State) (v : Word),
    v.toNat ∉ [0x00000000, 0x00000001, 0x00000002, 0x00000003, 0x0000000F] →
    (∃ zero op, decode (.cmd v) = .illegalCmd zero op ∧
      exec (.illegalCmd zero op) s = .next { s with status := s.status ||| 0x800#32 }) ∧
    exec (.wr 0x0#4 0x01#20 v) s = .next { s with status := s.status ||| 0x800#32 }

/-! ### Segment descriptors -/

/-- The four symbol descriptors append `symtone(c)` to the frame buffer and move the sequencer past the
segment: `SPS` samples, each the product of sine, Hamming window and carrier of R135, R143, R144.
The frame buffer as a field of the state, and the effect outside a modulation, with BAUD_RATE or
SAMPLE_RATE 0 too, are the model's choice (log entries 10 and 12). -/
def Obligations.SymbolSegmentAppendsItsTone : Prop :=
  ∀ (K : Type) [Field K] (T : Numeric K) (s : State),
    ∀ p ∈ [(Instr.sym00, s.toneFreq0), (Instr.sym01, s.toneFreq1), (Instr.sym10, s.toneFreq2),
        (Instr.sym11, s.toneFreq3)],
      let N := s.sampleRate.toNat / s.baudRate.toNat
      let sr : ℚ := s.sampleRate.toNat
      ∃ t, exec p.1 s = .next t ∧
        t = { s with buf := t.buf, seqSeg := s.seqSeg + 1, seqN := 0 } ∧
        t.buf.map (ToneSample.eval T) = s.buf.map (ToneSample.eval T) ++
          (List.range N).map fun n =>
            T.sin1 ((p.2.toNat * n : ℚ) / sr) *
              (if N = 1 then 1 else 27 / 50 - 23 / 50 * T.cos1 ((n : ℚ) / ((N : ℚ) - 1))) *
              (if s.carrierFreq.toNat = 0 then 1
               else T.cos1 ((s.carrierFreq.toNat * n : ℚ) / sr))

/-- The two marker descriptors append a pure tone of `MH` samples at MARKER_FREQ, or at twice that
without wrap-around, and move the sequencer past the segment (R160 to R163).
The frame buffer as a field of the state, and the effect outside a modulation, with BAUD_RATE or
SAMPLE_RATE 0 too, are the model's choice (log entries 10 and 12). -/
def Obligations.MarkerSegmentAppendsAPureTone : Prop :=
  ∀ (K : Type) [Field K] (T : Numeric K) (s : State),
    ∀ p ∈ [(Instr.mlo, 1), (Instr.mhi, 2)],
      ∃ t, exec p.1 s = .next t ∧
        t = { s with buf := t.buf, seqSeg := s.seqSeg + 1, seqN := 0 } ∧
        t.buf.map (ToneSample.eval T) = s.buf.map (ToneSample.eval T) ++
          (List.range (s.sampleRate.toNat * s.markerDurUs.toNat / 2000000)).map fun n =>
            T.sin1 (((p.2 : ℚ) * s.markerFreq.toNat * n) / s.sampleRate.toNat)

/-- A reserved descriptor, either one, ends the modulation with the fatal fault InvalidSymbol, code 6
(R108, R177, R300).
The idle sequencer after it, and the same fault where MOD is idle, are the model's choice (log entries 10
and 12). -/
def Obligations.ReservedSegmentRaisesInvalidSymbol : Prop :=
  ∀ (s : State) (low : BitVec 1),
    decode (.seg (0b11#2 ++ low)) = .segReserved low ∧
    exec (.segReserved low) s = .next { s with
      modErr := 6#32, modNsamp := 0#32, seqSeg := 0, seqN := 0, buf := []
      status := s.status &&& ~~~0x1#32 ||| 0x10#32 }

/-! ### The modulation -/

/-- `cfg_ok` is R52, and the reset configuration is not valid (R345). -/
def Obligations.ConfigurationCheckIsTheSpecs : Prop :=
  (∀ s : State, cfgOk s = true ↔ ConfigValid s) ∧ ¬ConfigValid State.reset

/-- The symbol fetch: symbol `k` is the bits `2k` and `2k + 1` of the payload, the earlier one the high bit
of the code; four symbols a byte, the first in bits 7:6 (R78, R71). -/
def Obligations.SymbolFetchTakesTwoBitsOfAByte : Prop :=
  ∀ (m : Memory 8) (k : Nat),
    let bit (i : Nat) : Nat := (m.read (i / 8)).toNat / 2 ^ (7 - i % 8) % 2
    (symbolAt m k).toNat = 2 * bit (2 * k) + bit (2 * k + 1) ∧
    (symbolAt m k).toNat = (m.read (k / 4)).toNat / 2 ^ (6 - 2 * (k % 4)) % 4

/-- The sequencer renders exactly the frame of R178, of `2*MS + nsym*SPS` samples, meets no reserved
descriptor (R177) and ends past the last of `nsym + 4` segments (R176).
The buffer and the position as fields, and a configuration that `cfg_ok` would refuse, are the model's
(log entries 10 and 12). -/
def Obligations.SequencerRendersTheFrame : Prop :=
  ∀ s : State, s.status.getLsbD 0 = true →
    renderStage s = { s with buf := frameSamples s, seqSeg := s.modNbits.toNat / 2 + 4, seqN := 0 } ∧
    (frameSamples s).length =
      2 * (2 * (s.sampleRate.toNat * s.markerDurUs.toNat / 2000000)) +
        s.modNbits.toNat / 2 * (s.sampleRate.toNat / s.baudRate.toNat)

/-- The fatal faults of a modulation in their order (R172 to R174, R181, R308): MOD_ERR gets the code,
MOD_NSAMP 0, MOD_BUSY falls, MOD_FAULT rises, and nothing else of the block changes (R300, R302).
The idle sequencer after it is the model's choice
(log entry 10). -/
def Obligations.ModulationFaultsInOrder : Prop :=
  ∀ (K : Type) [Field K] [LinearOrder K] [IsStrictOrderedRing K] [FloorRing K] (T : Numeric K)
    (s : State), s.status.getLsbD 0 = true →
    let faulted (code : Word) : Prop := modCompleteIn T s = { s with
      modErr := code, modNsamp := 0#32, seqSeg := 0, seqN := 0, buf := []
      status := s.status &&& ~~~0x1#32 ||| 0x10#32 }
    let overflow : Prop := s.config.capMbyte < (s.modNbits.toNat + 7) / 8 ∨
      s.config.capMpcm < 2 * (2 * (s.sampleRate.toNat * s.markerDurUs.toNat / 2000000)) +
        s.modNbits.toNat / 2 * (s.sampleRate.toNat / s.baudRate.toNat)
    (s.modNbits.toNat % 2 = 1 → faulted 1#32) ∧
    (s.modNbits.toNat % 2 = 0 → ¬ConfigValid s → faulted 3#32) ∧
    (s.modNbits.toNat % 2 = 0 → ConfigValid s → overflow → faulted 4#32) ∧
    (s.modNbits.toNat % 2 = 0 → ConfigValid s → ¬overflow →
      (∀ x ∈ frameSamples s, ToneSample.eval T x = 0) → faulted 5#32)

/-- A modulation that passes its checks writes the quantised frame: the largest magnitude maps to full
scale, every sample is truncated toward zero, and everything the operation does not write is kept
(R180 to R185). With another rounding (Q_ROUND) the samples are that rounding's.
The idle sequencer after
it and the second rounding are the model's choice (log entries 10 and 4). -/
def Obligations.ModulationWritesTheQuantisedFrame : Prop :=
  ∀ (K : Type) [Field K] [LinearOrder K] [IsStrictOrderedRing K] [FloorRing K] (T : Numeric K)
    (s : State), T.Lawful → s.config.wf → s.status.getLsbD 0 = true →
    s.modNbits.toNat % 2 = 0 → ConfigValid s → payloadBytes s ≤ s.config.capMbyte →
    frameLen s ≤ s.config.capMpcm → (∃ x ∈ frameSamples s, ToneSample.eval T x ≠ 0) →
    ∃ (t : State) (peak : K), modCompleteIn T s = t ∧
      t = { s with
        mpcm := t.mpcm, modNsamp := t.modNsamp, modErr := 0#32, seqSeg := 0, seqN := 0, buf := []
        status := s.status &&& ~~~0x1#32 ||| 0x4#32 } ∧
      t.modNsamp.toNat = frameLen s ∧
      0 < peak ∧ (∀ x ∈ frameSamples s, |ToneSample.eval T x| ≤ peak) ∧
      (∃ x ∈ frameSamples s, |ToneSample.eval T x| = peak) ∧
      (∀ (i : Nat) (x : ToneSample), (frameSamples s)[i]? = some x →
        let v := ToneSample.eval T x * 32767 / peak
        let q := (t.mpcm.read i).toInt
        (-32767 ≤ q ∧ q ≤ 32767) ∧
        (s.config.qRound = .trunc →
          (0 ≤ v → (q : K) ≤ v ∧ v < q + 1) ∧ (v ≤ 0 → v ≤ q ∧ (q : K) - 1 < v)) ∧
        (s.config.qRound = .other → q = T.roundOther v)) ∧
      ∀ i, frameLen s ≤ i → t.mpcm.read i = s.mpcm.read i

/-- The quantiser's corner claims (R182): a sample of full magnitude becomes 32767 or -32767 by its
sign, a zero sample 0, and no sample -32768. -/
def Obligations.QuantiserReachesFullScale : Prop :=
  ∀ (K : Type) [Field K] [LinearOrder K] [IsStrictOrderedRing K] [FloorRing K] (T : Numeric K)
    (buf : List K) (i : Nat) (b : K), (∃ x ∈ buf, x ≠ 0) → buf[i]? = some b →
    ∃ q : Pcm, (quantisedFrame T .trunc buf)[i]? = some q ∧ q.toInt ≠ -32768 ∧
      ((∀ x ∈ buf, |x| ≤ |b|) → q.toInt = if 0 < b then 32767 else -32767) ∧
      (b = 0 → q.toInt = 0) ∧
      (0 < b → 0 ≤ q.toInt) ∧ (b < 0 → q.toInt ≤ 0)

/-- An operation of the MOD engine ends in exactly one of success and fatal fault, with MOD_BUSY down,
and MOD_ERR is 0 exactly on success; a fault has written no memory cell and leaves no frame (R13, R27, R302).
Whose turn it is, given or free, is the model's own order (log entry 1). -/
def Obligations.ModulationEndsInExactlyOneWay : Prop :=
  ∀ (s t : State) (later : List Turn), s.rst = false → s.direct = none →
    s.turns = .agent .mod :: later ∨ s.turns = [] ∧ freeChoice s = some .mod →
    s.status.getLsbD 0 = true → s.status.getLsbD 2 = false →
    s.status.getLsbD 4 = false → step s = .next t →
    t.status.getLsbD 0 = false ∧ t.status.getLsbD 2 = !t.status.getLsbD 4 ∧
    (t.status.getLsbD 2 = true ↔ t.modErr = 0#32) ∧
    (t.status.getLsbD 4 = true → t.modNsamp = 0#32 ∧
      t.mbyte = s.mbyte ∧ t.mpcm = s.mpcm ∧ t.dpcm = s.dpcm ∧ t.dbyte = s.dbyte)

/-! ### The correlator -/

/-- The correlation is valid-mode: `L - MS + 1` values, value `k` the sum of `x[k+j] * m[j]` (R202,
R203). -/
def Obligations.CorrelationIsValidMode : Prop :=
  ∀ (K : Type) [Field K] (x m : List K),
    (correlation x m).length = x.length + 1 - m.length ∧
    ∀ k, k + m.length ≤ x.length →
      (correlation x m)[k]? = some (∑ j ∈ Finset.range m.length, x.getD (k + j) 0 * m.getD j 0)

/-- `locate` answers the first index whose correlation exceeds seven tenths of the largest (R200,
R204). -/
def Obligations.LocateAnswersTheFirstCrossing : Prop :=
  ∀ (K : Type) [Field K] [LinearOrder K] [IsStrictOrderedRing K] (x m : List K) (k : Nat),
    locate x m = some k ↔
      ∃ M ∈ correlation x m, (∀ c ∈ correlation x m, c ≤ M) ∧
        (∃ c, (correlation x m)[k]? = some c ∧ 7 * M < 10 * c) ∧
        ∀ j c, j < k → (correlation x m)[j]? = some c → 10 * c ≤ 7 * M

/-- `NotFound` happens exactly where the capture is shorter than the template or no correlation is
positive (R205). -/
def Obligations.LocateFailsExactlyWithoutPositiveCorrelation : Prop :=
  ∀ (K : Type) [Field K] [LinearOrder K] [IsStrictOrderedRing K] (x m : List K),
    locate x m = none ↔ x.length < m.length ∨ ∀ c ∈ correlation x m, c ≤ 0

/-- A positive scale factor on the capture does not move the answer (R208). -/
def Obligations.LocateIsScaleInvariant : Prop :=
  ∀ (K : Type) [Field K] [LinearOrder K] [IsStrictOrderedRing K] (x m : List K) (a : K), 0 < a →
    locate (x.map (a * ·)) m = locate x m

/-! ### The demodulation and the pixel formatting -/

/-- The fatal faults of a demodulation before its windows are cut, in their order (R216, R218, R221,
R308): DEM_ERR gets the code, the four result registers 0, DEM_BUSY falls, DEM_FAULT rises, and nothing
else changes but MARKER_NOT_FOUND, raised where the marker is not found (R301, R302). -/
def Obligations.DemodulationFaultsInOrder : Prop :=
  ∀ (K : Type) [Field K] [LinearOrder K] [IsStrictOrderedRing K] (T : Numeric K) (s : State),
    s.status.getLsbD 1 = true → s.demOp = .demod →
    let faulted (code status : Word) : Prop := demCompleteIn T s = { s with
      demErr := code, demNbits := 0#32, demNsym := 0#32, demOffset := 0#32, pixCount := 0#32
      status := status &&& ~~~0x2#32 ||| 0x20#32 }
    let fits : Prop := s.demNsamp.toNat ≤ s.config.capDpcm
    let silent : Prop := ∀ i, i < s.demNsamp.toNat → s.dpcm.read i = 0#16
    (¬ConfigValid s → faulted 3#32 s.status) ∧
    (ConfigValid s → ¬fits → faulted 4#32 s.status) ∧
    (ConfigValid s → fits → silent → faulted 5#32 s.status) ∧
    (ConfigValid s → fits → ¬silent → locate (capture s) (marker T s) = none →
      s.ctrl.getLsbD 0 = false → faulted 2#32 (s.status ||| 0x40#32))

/-- A demodulation whose bytes do not fit DBYTE ends with Capacity after its windows are counted, with the
flags raised on the way kept: MARKER_NOT_FOUND and DEGRADED where it fell back, INCOMPLETE_WINDOW where
samples are left over (R222, R223, R229, R301). -/
def Obligations.DemodulationWithoutRoomFaults : Prop :=
  ∀ (K : Type) [Field K] [LinearOrder K] [IsStrictOrderedRing K] (T : Numeric K) (s : State)
    (offset : Nat) (found : Word), s.status.getLsbD 1 = true → s.demOp = .demod → ConfigValid s →
    s.demNsamp.toNat ≤ s.config.capDpcm → (∃ i, i < s.demNsamp.toNat ∧ s.dpcm.read i ≠ 0#16) →
    (locate (capture s) (marker T s) = some offset ∧ found = 0#32 ∨
      locate (capture s) (marker T s) = none ∧ s.ctrl.getLsbD 0 = true ∧ offset = 0 ∧
        found = 0xC0#32) →
    let span := s.demNsamp.toNat - 2 * markerLen s - 2 * offset
    let flags : Word := found ||| (if span % sps s = 0 then 0#32 else 0x100#32)
    s.config.capDbyte < span / sps s / 4 →
    demCompleteIn T s = { s with
      demErr := 4#32, demNbits := 0#32, demNsym := 0#32, demOffset := 0#32, pixCount := 0#32
      status := (s.status ||| flags) &&& ~~~0x2#32 ||| 0x20#32 }

/-- A demodulation that passes its checks: offset from the correlator, or 0 with MARKER_NOT_FOUND and
DEGRADED under FALLBACK_EN; `nwin` windows of SPS samples; four codes a byte, the first the most
significant; the remainder dropped; everything not written kept (R221 to R230). -/
def Obligations.DemodulationWritesTheDetectedBytes : Prop :=
  ∀ (K : Type) [Field K] [LinearOrder K] [IsStrictOrderedRing K] (T : Numeric K) (s : State)
    (offset : Nat) (found : Word), s.config.wf → s.status.getLsbD 1 = true → s.demOp = .demod →
    ConfigValid s → s.demNsamp.toNat ≤ s.config.capDpcm →
    (∃ i, i < s.demNsamp.toNat ∧ s.dpcm.read i ≠ 0#16) →
    (locate (capture s) (marker T s) = some offset ∧ found = 0#32 ∨
      locate (capture s) (marker T s) = none ∧ s.ctrl.getLsbD 0 = true ∧ offset = 0 ∧
        found = 0xC0#32) →
    let span := s.demNsamp.toNat - 2 * markerLen s - 2 * offset
    let nwin := span / sps s
    let flags : Word := found ||| (if span % sps s = 0 then 0#32 else 0x100#32)
    nwin / 4 ≤ s.config.capDbyte →
    ∃ t, demCompleteIn T s = t ∧
      t = { s with
        dbyte := t.dbyte, demNsym := t.demNsym, demNbits := t.demNbits, demOffset := t.demOffset
        demErr := 0#32, pixCount := 0#32
        status := (s.status ||| flags) &&& ~~~0x2#32 ||| 0x8#32 } ∧
      t.demNsym.toNat = nwin ∧ t.demNbits.toNat = 8 * (nwin / 4) ∧ t.demOffset.toNat = offset ∧
      (∀ (j : Nat) (c0 c1 c2 c3 : SymbolCode), j < nwin / 4 →
        (detectedCodes T offset s)[4 * j]? = some c0 →
        (detectedCodes T offset s)[4 * j + 1]? = some c1 →
        (detectedCodes T offset s)[4 * j + 2]? = some c2 →
        (detectedCodes T offset s)[4 * j + 3]? = some c3 →
        t.dbyte.read j = c0 ++ c1 ++ c2 ++ c3) ∧
      (detectedCodes T offset s).length = nwin ∧
      ∀ j, nwin / 4 ≤ j → t.dbyte.read j = s.dbyte.read j

/-- The detected code of window `w` is the least one of maximal score, the score being the inner product
of the window's normalised samples with `symtone(c)` (R217, R224, R226). -/
def Obligations.DetectedCodeIsTheLeastOfMaximalScore : Prop :=
  ∀ (K : Type) [Field K] [LinearOrder K] [IsStrictOrderedRing K] (T : Numeric K) (s : State)
    (offset w : Nat) (c : SymbolCode), (detectedCodes T offset s)[w]? = some c →
    let x (i : Nat) : K := ((s.dpcm.read i).toInt : K) / (capturedPeak s : K)
    let score (d : SymbolCode) : K := ∑ j ∈ Finset.range (sps s),
      x (offset + markerLen s + w * sps s + j) * (symtone T s d).getD j 0
    (∀ d, score d ≤ score c) ∧ ∀ d, d.toNat < c.toNat → score d < score c

/-- The length part of the round trip (R233): a capture of exactly the frame's length, located at 0,
gives as many windows as there were symbols, none incomplete. -/
def Obligations.RoundTripKeepsTheLength : Prop :=
  ∀ s : State, ConfigValid s → s.demNsamp.toNat = frameLen s →
    windowCount s 0 = symbolCount s ∧ spanOf s 0 % sps s = 0 ∧
    8 * byteCount s 0 = 8 * (2 * (s.modNbits.toNat / 2) / 8)

/-- PIX_FMT's completion (R252, R248, R301): the pixel array is `pixels_from_bits` of the recovered
bytes, DBYTE beyond the padding is kept, LEN_MISMATCH tells a difference; a product above the capacity
faults with Capacity and leaves the demodulation's results. -/
def Obligations.PixelFormattingPadsOrTruncates : Prop :=
  ∀ (K : Type) [Field K] [LinearOrder K] (T : Numeric K) (s : State), s.config.wf →
    s.status.getLsbD 1 = true → s.demOp = .pix →
    let P := s.frameH.toNat * s.frameW.toNat
    let nb := s.demNbits.toNat / 8
    (s.config.capDbyte < P →
      demCompleteIn T s = { s with
        demErr := 4#32, pixCount := 0#32, status := s.status &&& ~~~0x2#32 ||| 0x20#32 }) ∧
    (P ≤ s.config.capDbyte → ∃ t, demCompleteIn T s = t ∧
      t = { s with
        dbyte := t.dbyte, pixCount := t.pixCount, demErr := 0#32
        status := (s.status ||| (if nb = P then 0#32 else 0x200#32)) &&& ~~~0x2#32 ||| 0x8#32 } ∧
      t.pixCount.toNat = P ∧
      (List.range P).map t.dbyte.read =
        pixelsFromBits (bitsFromBytes ((List.range nb).map s.dbyte.read))
          s.frameH.toNat s.frameW.toNat ∧
      ∀ a, (a < nb ∨ P ≤ a) → t.dbyte.read a = s.dbyte.read a)

/-- An operation of the DEM engine ends in exactly one of success and fatal fault, with DEM_BUSY down, and
DEM_ERR is 0 exactly on success; a fault has written no memory cell and leaves no pixel (R13, R28, R302).
Whose turn it is, given or free, is the model's own order (log entry 1). -/
def Obligations.DemOperationEndsInExactlyOneWay : Prop :=
  ∀ (s t : State) (later : List Turn), s.rst = false → s.direct = none →
    s.turns = .agent .dem :: later ∨ s.turns = [] ∧ freeChoice s = some .dem →
    s.status.getLsbD 1 = true → s.status.getLsbD 3 = false →
    s.status.getLsbD 5 = false → step s = .next t →
    t.status.getLsbD 1 = false ∧ t.status.getLsbD 3 = !t.status.getLsbD 5 ∧
    (t.status.getLsbD 3 = true ↔ t.demErr = 0#32) ∧
    (t.status.getLsbD 5 = true → t.pixCount = 0#32 ∧
      t.mbyte = s.mbyte ∧ t.mpcm = s.mpcm ∧ t.dpcm = s.dpcm ∧ t.dbyte = s.dbyte)

/-- Packing bytes into bits and back loses nothing, bits beyond the last whole byte are dropped, and
bit `i` of a byte sequence is bit `7 - i mod 8` of byte `i / 8` (R245, R246). -/
def Obligations.BytesOfBitsInvertsBitsOfBytes : Prop :=
  (∀ bytes : List Byte, bytesFromBits (bitsFromBytes bytes) = bytes) ∧
  (∀ bytes : List Byte, (bitsFromBytes bytes).length = 8 * bytes.length) ∧
  (∀ bits : List Bool, (bytesFromBits bits).length = bits.length / 8) ∧
  (∀ (bytes : List Byte) (i : Nat) (b : Byte), bytes[i / 8]? = some b →
    (bitsFromBytes bytes)[i]? = some (b.getLsbD (7 - i % 8))) ∧
  (∀ (bits : List Bool) (j t : Nat) (b : Byte), (bytesFromBits bits)[j]? = some b → t < 8 →
    bits[8 * j + t]? = some (b.getLsbD (7 - t)))

/-! ### Whole-machine rules -/

/-- The two engines commute: with both busy, completing MOD then DEM and DEM then MOD leave the same
state (R363, R308).
The order of turns is the model's own field (log entry 1). -/
def Obligations.EnginesCommute : Prop :=
  ∀ (s : State) (later : List Turn), s.rst = false → s.direct = none →
    s.status.getLsbD 0 = true → s.status.getLsbD 1 = true →
    ∃ t, Host.Core.run Sys2Proof.core 2
        { s with turns := .agent .mod :: .agent .dem :: later } = .next t ∧
      Host.Core.run Sys2Proof.core 2
        { s with turns := .agent .dem :: .agent .mod :: later } = .next t

/-- A sticky flag that is set stays set through every step, but for a host write of 1 to it, SOFT_RESET,
and `rst` (R25, R263).
Fetch and order of turns are the model's own (log entries 1 and 2). -/
def Obligations.StickyFlagsAreOnlyClearedByTheHost : Prop :=
  ∀ (s t : State) (b : Nat), 2 ≤ b → b ≤ 12 → step s = .next t → s.status.getLsbD b = true →
    t.status.getLsbD b = true ∨
    (∃ w u, fetch s = some (w, u) ∧
      (decode w = .softReset ∨ decode w = .wr 0x0#4 0x01#20 0x0000000F#32 ∨
        ∃ v : Word, decode w = .wr 0x0#4 0x03#20 v ∧ v.getLsbD b = true)) ∨
    (fetch s = none ∧ ∃ u, nextTurn s = some (.rstHigh, u))

/-- The interrupt output is 1 exactly where some bit of 12:2 is set in STATUS and enabled in IRQ_EN; the
BUSY bits are no sources (R305, R64). -/
def Obligations.IrqIsAnyEnabledStickyFlag : Prop :=
  ∀ s : State, s.irq = true ↔
    ∃ b, 2 ≤ b ∧ b ≤ 12 ∧ s.status.getLsbD b = true ∧ s.irqEn.getLsbD b = true

/-- Under NUM_IDEAL no sample of a tone exceeds 1 in magnitude, a segment starts at 0, and a tone at half
the sample rate is silent, whatever its window and carrier (R148, R141). -/
def Obligations.IdealTonesAreBounded : Prop :=
  (∀ x : ToneSample, x.n < x.len → |ToneSample.eval Numeric.ideal x| ≤ 1) ∧
  (∀ (f N : Nat) (win : Window) (fc rate : Nat), 1 ≤ N →
    (tone Numeric.ideal f N win fc rate)[0]? = some 0) ∧
  (∀ (f N : Nat) (win : Window) (fc : Nat), 1 ≤ f →
    ∀ v ∈ tone Numeric.ideal f N win fc (2 * f), v = 0)

/-- The reference profile NUM_IDEAL (R8) is a lawful one, so what is claimed of every lawful profile holds of
it. The laws are the model's, of the waves deduced and of the other rounding chosen (log entries 3 and 4), and
so is the rounding that `Numeric.ideal` has for Q_ROUND's other value. -/
def Obligations.IdealProfileIsLawful : Prop := Numeric.ideal.Lawful

/-- Where no turn is given, the free choice names an agent that has a step, names one wherever some agent has,
and names the free value's agent where that one has (R12, R94, R360). The free value and what stands in for it
are the model's choice (log entry 1). -/
def Obligations.FreeChoiceNamesAnAgentThatCanMove : Prop :=
  ∀ s : State,
    let moves (a : Agent) : Prop := s.rst = false ∧
      match a with
      | .host => s.script ≠ []
      | .mod => s.status.getLsbD 0 = true
      | .dem => s.status.getLsbD 1 = true
    (∀ a, freeChoice s = some a → moves a) ∧
    (freeChoice s = none ↔ ∀ a, ¬moves a) ∧
    (moves (Config.freeAgent s.tick) → freeChoice s = some (Config.freeAgent s.tick))

/-- The Hamming window (R143): its formula, 1 where the segment has one sample, its two end points 2/25,
its symmetry, and 1 in the centre of an odd number of samples. The laws of `COS1` that these values need are
deduced from them (log entry 3); the profile of the hardware has them, which the second part says. -/
def Obligations.HammingWindowHasItsValues : Prop :=
  (∀ (K : Type) [Field K] [LinearOrder K] [IsStrictOrderedRing K] (T : Numeric K), T.Lawful →
    hamming T 1 0 = 1 ∧
    (∀ N n, 2 ≤ N → n < N →
      hamming T N n = 27 / 50 - 23 / 50 * T.cos1 ((n : ℚ) / ((N - 1 : Nat) : ℚ)) ∧
      hamming T N n = hamming T N (N - 1 - n)) ∧
    (∀ N, 2 ≤ N → hamming T N 0 = 2 / 25 ∧ hamming T N (N - 1) = 2 / 25) ∧
    (∀ N, N % 2 = 1 → hamming T N ((N - 1) / 2) = 1)) ∧
  @Numeric.Lawful Config.num.Num Config.num.field Config.num.order Config.num.numeric
end

