-- ==== Sys2Proof/Laws/State.lean ====
section
/-! SUPPORT. One lemma per field for each small update of the state, so that no later proof unfolds one. -/

namespace Sys2Proof.Machine

/-! ### `raise` -/

@[simp] theorem raise_ctrl (b : StatusBit) (s : State) : (raise b s).ctrl = s.ctrl := rfl
@[simp] theorem raise_status (b : StatusBit) (s : State) : (raise b s).status = s.status ||| b.mask := rfl
@[simp] theorem raise_irqEn (b : StatusBit) (s : State) : (raise b s).irqEn = s.irqEn := rfl
@[simp] theorem raise_modErr (b : StatusBit) (s : State) : (raise b s).modErr = s.modErr := rfl
@[simp] theorem raise_demErr (b : StatusBit) (s : State) : (raise b s).demErr = s.demErr := rfl
@[simp] theorem raise_sampleRate (b : StatusBit) (s : State) : (raise b s).sampleRate = s.sampleRate := rfl
@[simp] theorem raise_baudRate (b : StatusBit) (s : State) : (raise b s).baudRate = s.baudRate := rfl
@[simp] theorem raise_carrierFreq (b : StatusBit) (s : State) : (raise b s).carrierFreq = s.carrierFreq := rfl
@[simp] theorem raise_markerFreq (b : StatusBit) (s : State) : (raise b s).markerFreq = s.markerFreq := rfl
@[simp] theorem raise_markerDurUs (b : StatusBit) (s : State) : (raise b s).markerDurUs = s.markerDurUs := rfl
@[simp] theorem raise_frameH (b : StatusBit) (s : State) : (raise b s).frameH = s.frameH := rfl
@[simp] theorem raise_frameW (b : StatusBit) (s : State) : (raise b s).frameW = s.frameW := rfl
@[simp] theorem raise_toneFreq0 (b : StatusBit) (s : State) : (raise b s).toneFreq0 = s.toneFreq0 := rfl
@[simp] theorem raise_toneFreq1 (b : StatusBit) (s : State) : (raise b s).toneFreq1 = s.toneFreq1 := rfl
@[simp] theorem raise_toneFreq2 (b : StatusBit) (s : State) : (raise b s).toneFreq2 = s.toneFreq2 := rfl
@[simp] theorem raise_toneFreq3 (b : StatusBit) (s : State) : (raise b s).toneFreq3 = s.toneFreq3 := rfl
@[simp] theorem raise_modNbits (b : StatusBit) (s : State) : (raise b s).modNbits = s.modNbits := rfl
@[simp] theorem raise_modNsamp (b : StatusBit) (s : State) : (raise b s).modNsamp = s.modNsamp := rfl
@[simp] theorem raise_demNsamp (b : StatusBit) (s : State) : (raise b s).demNsamp = s.demNsamp := rfl
@[simp] theorem raise_demNbits (b : StatusBit) (s : State) : (raise b s).demNbits = s.demNbits := rfl
@[simp] theorem raise_demNsym (b : StatusBit) (s : State) : (raise b s).demNsym = s.demNsym := rfl
@[simp] theorem raise_demOffset (b : StatusBit) (s : State) : (raise b s).demOffset = s.demOffset := rfl
@[simp] theorem raise_pixCount (b : StatusBit) (s : State) : (raise b s).pixCount = s.pixCount := rfl
@[simp] theorem raise_demOp (b : StatusBit) (s : State) : (raise b s).demOp = s.demOp := rfl
@[simp] theorem raise_mbyte (b : StatusBit) (s : State) : (raise b s).mbyte = s.mbyte := rfl
@[simp] theorem raise_mpcm (b : StatusBit) (s : State) : (raise b s).mpcm = s.mpcm := rfl
@[simp] theorem raise_dpcm (b : StatusBit) (s : State) : (raise b s).dpcm = s.dpcm := rfl
@[simp] theorem raise_dbyte (b : StatusBit) (s : State) : (raise b s).dbyte = s.dbyte := rfl
@[simp] theorem raise_seqSeg (b : StatusBit) (s : State) : (raise b s).seqSeg = s.seqSeg := rfl
@[simp] theorem raise_seqN (b : StatusBit) (s : State) : (raise b s).seqN = s.seqN := rfl
@[simp] theorem raise_buf (b : StatusBit) (s : State) : (raise b s).buf = s.buf := rfl
@[simp] theorem raise_rst (b : StatusBit) (s : State) : (raise b s).rst = s.rst := rfl
@[simp] theorem raise_config (b : StatusBit) (s : State) : (raise b s).config = s.config := rfl
@[simp] theorem raise_script (b : StatusBit) (s : State) : (raise b s).script = s.script := rfl
@[simp] theorem raise_readLog (b : StatusBit) (s : State) : (raise b s).readLog = s.readLog := rfl
@[simp] theorem raise_turns (b : StatusBit) (s : State) : (raise b s).turns = s.turns := rfl
@[simp] theorem raise_direct (b : StatusBit) (s : State) : (raise b s).direct = s.direct := rfl
@[simp] theorem raise_tick (b : StatusBit) (s : State) : (raise b s).tick = s.tick := rfl
@[simp] theorem raise_nextGen (b : StatusBit) (s : State) : (raise b s).nextGen = s.nextGen := rfl

/-! ### `lower` -/

@[simp] theorem lower_ctrl (b : StatusBit) (s : State) : (lower b s).ctrl = s.ctrl := rfl
@[simp] theorem lower_status (b : StatusBit) (s : State) : (lower b s).status = s.status &&& ~~~b.mask := rfl
@[simp] theorem lower_irqEn (b : StatusBit) (s : State) : (lower b s).irqEn = s.irqEn := rfl
@[simp] theorem lower_modErr (b : StatusBit) (s : State) : (lower b s).modErr = s.modErr := rfl
@[simp] theorem lower_demErr (b : StatusBit) (s : State) : (lower b s).demErr = s.demErr := rfl
@[simp] theorem lower_sampleRate (b : StatusBit) (s : State) : (lower b s).sampleRate = s.sampleRate := rfl
@[simp] theorem lower_baudRate (b : StatusBit) (s : State) : (lower b s).baudRate = s.baudRate := rfl
@[simp] theorem lower_carrierFreq (b : StatusBit) (s : State) : (lower b s).carrierFreq = s.carrierFreq := rfl
@[simp] theorem lower_markerFreq (b : StatusBit) (s : State) : (lower b s).markerFreq = s.markerFreq := rfl
@[simp] theorem lower_markerDurUs (b : StatusBit) (s : State) : (lower b s).markerDurUs = s.markerDurUs := rfl
@[simp] theorem lower_frameH (b : StatusBit) (s : State) : (lower b s).frameH = s.frameH := rfl
@[simp] theorem lower_frameW (b : StatusBit) (s : State) : (lower b s).frameW = s.frameW := rfl
@[simp] theorem lower_toneFreq0 (b : StatusBit) (s : State) : (lower b s).toneFreq0 = s.toneFreq0 := rfl
@[simp] theorem lower_toneFreq1 (b : StatusBit) (s : State) : (lower b s).toneFreq1 = s.toneFreq1 := rfl
@[simp] theorem lower_toneFreq2 (b : StatusBit) (s : State) : (lower b s).toneFreq2 = s.toneFreq2 := rfl
@[simp] theorem lower_toneFreq3 (b : StatusBit) (s : State) : (lower b s).toneFreq3 = s.toneFreq3 := rfl
@[simp] theorem lower_modNbits (b : StatusBit) (s : State) : (lower b s).modNbits = s.modNbits := rfl
@[simp] theorem lower_modNsamp (b : StatusBit) (s : State) : (lower b s).modNsamp = s.modNsamp := rfl
@[simp] theorem lower_demNsamp (b : StatusBit) (s : State) : (lower b s).demNsamp = s.demNsamp := rfl
@[simp] theorem lower_demNbits (b : StatusBit) (s : State) : (lower b s).demNbits = s.demNbits := rfl
@[simp] theorem lower_demNsym (b : StatusBit) (s : State) : (lower b s).demNsym = s.demNsym := rfl
@[simp] theorem lower_demOffset (b : StatusBit) (s : State) : (lower b s).demOffset = s.demOffset := rfl
@[simp] theorem lower_pixCount (b : StatusBit) (s : State) : (lower b s).pixCount = s.pixCount := rfl
@[simp] theorem lower_demOp (b : StatusBit) (s : State) : (lower b s).demOp = s.demOp := rfl
@[simp] theorem lower_mbyte (b : StatusBit) (s : State) : (lower b s).mbyte = s.mbyte := rfl
@[simp] theorem lower_mpcm (b : StatusBit) (s : State) : (lower b s).mpcm = s.mpcm := rfl
@[simp] theorem lower_dpcm (b : StatusBit) (s : State) : (lower b s).dpcm = s.dpcm := rfl
@[simp] theorem lower_dbyte (b : StatusBit) (s : State) : (lower b s).dbyte = s.dbyte := rfl
@[simp] theorem lower_seqSeg (b : StatusBit) (s : State) : (lower b s).seqSeg = s.seqSeg := rfl
@[simp] theorem lower_seqN (b : StatusBit) (s : State) : (lower b s).seqN = s.seqN := rfl
@[simp] theorem lower_buf (b : StatusBit) (s : State) : (lower b s).buf = s.buf := rfl
@[simp] theorem lower_rst (b : StatusBit) (s : State) : (lower b s).rst = s.rst := rfl
@[simp] theorem lower_config (b : StatusBit) (s : State) : (lower b s).config = s.config := rfl
@[simp] theorem lower_script (b : StatusBit) (s : State) : (lower b s).script = s.script := rfl
@[simp] theorem lower_readLog (b : StatusBit) (s : State) : (lower b s).readLog = s.readLog := rfl
@[simp] theorem lower_turns (b : StatusBit) (s : State) : (lower b s).turns = s.turns := rfl
@[simp] theorem lower_direct (b : StatusBit) (s : State) : (lower b s).direct = s.direct := rfl
@[simp] theorem lower_tick (b : StatusBit) (s : State) : (lower b s).tick = s.tick := rfl
@[simp] theorem lower_nextGen (b : StatusBit) (s : State) : (lower b s).nextGen = s.nextGen := rfl

/-! ### `writeOneToClear` -/

@[simp] theorem writeOneToClear_ctrl (v : Word) (s : State) : (writeOneToClear v s).ctrl = s.ctrl := rfl
@[simp] theorem writeOneToClear_status (v : Word) (s : State) : (writeOneToClear v s).status = s.status &&& ~~~(v &&& stickyMask) := rfl
@[simp] theorem writeOneToClear_irqEn (v : Word) (s : State) : (writeOneToClear v s).irqEn = s.irqEn := rfl
@[simp] theorem writeOneToClear_modErr (v : Word) (s : State) : (writeOneToClear v s).modErr = s.modErr := rfl
@[simp] theorem writeOneToClear_demErr (v : Word) (s : State) : (writeOneToClear v s).demErr = s.demErr := rfl
@[simp] theorem writeOneToClear_sampleRate (v : Word) (s : State) : (writeOneToClear v s).sampleRate = s.sampleRate := rfl
@[simp] theorem writeOneToClear_baudRate (v : Word) (s : State) : (writeOneToClear v s).baudRate = s.baudRate := rfl
@[simp] theorem writeOneToClear_carrierFreq (v : Word) (s : State) : (writeOneToClear v s).carrierFreq = s.carrierFreq := rfl
@[simp] theorem writeOneToClear_markerFreq (v : Word) (s : State) : (writeOneToClear v s).markerFreq = s.markerFreq := rfl
@[simp] theorem writeOneToClear_markerDurUs (v : Word) (s : State) : (writeOneToClear v s).markerDurUs = s.markerDurUs := rfl
@[simp] theorem writeOneToClear_frameH (v : Word) (s : State) : (writeOneToClear v s).frameH = s.frameH := rfl
@[simp] theorem writeOneToClear_frameW (v : Word) (s : State) : (writeOneToClear v s).frameW = s.frameW := rfl
@[simp] theorem writeOneToClear_toneFreq0 (v : Word) (s : State) : (writeOneToClear v s).toneFreq0 = s.toneFreq0 := rfl
@[simp] theorem writeOneToClear_toneFreq1 (v : Word) (s : State) : (writeOneToClear v s).toneFreq1 = s.toneFreq1 := rfl
@[simp] theorem writeOneToClear_toneFreq2 (v : Word) (s : State) : (writeOneToClear v s).toneFreq2 = s.toneFreq2 := rfl
@[simp] theorem writeOneToClear_toneFreq3 (v : Word) (s : State) : (writeOneToClear v s).toneFreq3 = s.toneFreq3 := rfl
@[simp] theorem writeOneToClear_modNbits (v : Word) (s : State) : (writeOneToClear v s).modNbits = s.modNbits := rfl
@[simp] theorem writeOneToClear_modNsamp (v : Word) (s : State) : (writeOneToClear v s).modNsamp = s.modNsamp := rfl
@[simp] theorem writeOneToClear_demNsamp (v : Word) (s : State) : (writeOneToClear v s).demNsamp = s.demNsamp := rfl
@[simp] theorem writeOneToClear_demNbits (v : Word) (s : State) : (writeOneToClear v s).demNbits = s.demNbits := rfl
@[simp] theorem writeOneToClear_demNsym (v : Word) (s : State) : (writeOneToClear v s).demNsym = s.demNsym := rfl
@[simp] theorem writeOneToClear_demOffset (v : Word) (s : State) : (writeOneToClear v s).demOffset = s.demOffset := rfl
@[simp] theorem writeOneToClear_pixCount (v : Word) (s : State) : (writeOneToClear v s).pixCount = s.pixCount := rfl
@[simp] theorem writeOneToClear_demOp (v : Word) (s : State) : (writeOneToClear v s).demOp = s.demOp := rfl
@[simp] theorem writeOneToClear_mbyte (v : Word) (s : State) : (writeOneToClear v s).mbyte = s.mbyte := rfl
@[simp] theorem writeOneToClear_mpcm (v : Word) (s : State) : (writeOneToClear v s).mpcm = s.mpcm := rfl
@[simp] theorem writeOneToClear_dpcm (v : Word) (s : State) : (writeOneToClear v s).dpcm = s.dpcm := rfl
@[simp] theorem writeOneToClear_dbyte (v : Word) (s : State) : (writeOneToClear v s).dbyte = s.dbyte := rfl
@[simp] theorem writeOneToClear_seqSeg (v : Word) (s : State) : (writeOneToClear v s).seqSeg = s.seqSeg := rfl
@[simp] theorem writeOneToClear_seqN (v : Word) (s : State) : (writeOneToClear v s).seqN = s.seqN := rfl
@[simp] theorem writeOneToClear_buf (v : Word) (s : State) : (writeOneToClear v s).buf = s.buf := rfl
@[simp] theorem writeOneToClear_rst (v : Word) (s : State) : (writeOneToClear v s).rst = s.rst := rfl
@[simp] theorem writeOneToClear_config (v : Word) (s : State) : (writeOneToClear v s).config = s.config := rfl
@[simp] theorem writeOneToClear_script (v : Word) (s : State) : (writeOneToClear v s).script = s.script := rfl
@[simp] theorem writeOneToClear_readLog (v : Word) (s : State) : (writeOneToClear v s).readLog = s.readLog := rfl
@[simp] theorem writeOneToClear_turns (v : Word) (s : State) : (writeOneToClear v s).turns = s.turns := rfl
@[simp] theorem writeOneToClear_direct (v : Word) (s : State) : (writeOneToClear v s).direct = s.direct := rfl
@[simp] theorem writeOneToClear_tick (v : Word) (s : State) : (writeOneToClear v s).tick = s.tick := rfl
@[simp] theorem writeOneToClear_nextGen (v : Word) (s : State) : (writeOneToClear v s).nextGen = s.nextGen := rfl

/-! ### `idleSequencer` -/

@[simp] theorem idleSequencer_ctrl (s : State) : (idleSequencer s).ctrl = s.ctrl := rfl
@[simp] theorem idleSequencer_status (s : State) : (idleSequencer s).status = s.status := rfl
@[simp] theorem idleSequencer_irqEn (s : State) : (idleSequencer s).irqEn = s.irqEn := rfl
@[simp] theorem idleSequencer_modErr (s : State) : (idleSequencer s).modErr = s.modErr := rfl
@[simp] theorem idleSequencer_demErr (s : State) : (idleSequencer s).demErr = s.demErr := rfl
@[simp] theorem idleSequencer_sampleRate (s : State) : (idleSequencer s).sampleRate = s.sampleRate := rfl
@[simp] theorem idleSequencer_baudRate (s : State) : (idleSequencer s).baudRate = s.baudRate := rfl
@[simp] theorem idleSequencer_carrierFreq (s : State) : (idleSequencer s).carrierFreq = s.carrierFreq := rfl
@[simp] theorem idleSequencer_markerFreq (s : State) : (idleSequencer s).markerFreq = s.markerFreq := rfl
@[simp] theorem idleSequencer_markerDurUs (s : State) : (idleSequencer s).markerDurUs = s.markerDurUs := rfl
@[simp] theorem idleSequencer_frameH (s : State) : (idleSequencer s).frameH = s.frameH := rfl
@[simp] theorem idleSequencer_frameW (s : State) : (idleSequencer s).frameW = s.frameW := rfl
@[simp] theorem idleSequencer_toneFreq0 (s : State) : (idleSequencer s).toneFreq0 = s.toneFreq0 := rfl
@[simp] theorem idleSequencer_toneFreq1 (s : State) : (idleSequencer s).toneFreq1 = s.toneFreq1 := rfl
@[simp] theorem idleSequencer_toneFreq2 (s : State) : (idleSequencer s).toneFreq2 = s.toneFreq2 := rfl
@[simp] theorem idleSequencer_toneFreq3 (s : State) : (idleSequencer s).toneFreq3 = s.toneFreq3 := rfl
@[simp] theorem idleSequencer_modNbits (s : State) : (idleSequencer s).modNbits = s.modNbits := rfl
@[simp] theorem idleSequencer_modNsamp (s : State) : (idleSequencer s).modNsamp = s.modNsamp := rfl
@[simp] theorem idleSequencer_demNsamp (s : State) : (idleSequencer s).demNsamp = s.demNsamp := rfl
@[simp] theorem idleSequencer_demNbits (s : State) : (idleSequencer s).demNbits = s.demNbits := rfl
@[simp] theorem idleSequencer_demNsym (s : State) : (idleSequencer s).demNsym = s.demNsym := rfl
@[simp] theorem idleSequencer_demOffset (s : State) : (idleSequencer s).demOffset = s.demOffset := rfl
@[simp] theorem idleSequencer_pixCount (s : State) : (idleSequencer s).pixCount = s.pixCount := rfl
@[simp] theorem idleSequencer_demOp (s : State) : (idleSequencer s).demOp = s.demOp := rfl
@[simp] theorem idleSequencer_mbyte (s : State) : (idleSequencer s).mbyte = s.mbyte := rfl
@[simp] theorem idleSequencer_mpcm (s : State) : (idleSequencer s).mpcm = s.mpcm := rfl
@[simp] theorem idleSequencer_dpcm (s : State) : (idleSequencer s).dpcm = s.dpcm := rfl
@[simp] theorem idleSequencer_dbyte (s : State) : (idleSequencer s).dbyte = s.dbyte := rfl
@[simp] theorem idleSequencer_seqSeg (s : State) : (idleSequencer s).seqSeg = 0 := rfl
@[simp] theorem idleSequencer_seqN (s : State) : (idleSequencer s).seqN = 0 := rfl
@[simp] theorem idleSequencer_buf (s : State) : (idleSequencer s).buf = [] := rfl
@[simp] theorem idleSequencer_rst (s : State) : (idleSequencer s).rst = s.rst := rfl
@[simp] theorem idleSequencer_config (s : State) : (idleSequencer s).config = s.config := rfl
@[simp] theorem idleSequencer_script (s : State) : (idleSequencer s).script = s.script := rfl
@[simp] theorem idleSequencer_readLog (s : State) : (idleSequencer s).readLog = s.readLog := rfl
@[simp] theorem idleSequencer_turns (s : State) : (idleSequencer s).turns = s.turns := rfl
@[simp] theorem idleSequencer_direct (s : State) : (idleSequencer s).direct = s.direct := rfl
@[simp] theorem idleSequencer_tick (s : State) : (idleSequencer s).tick = s.tick := rfl
@[simp] theorem idleSequencer_nextGen (s : State) : (idleSequencer s).nextGen = s.nextGen := rfl

/-! ### `emit` -/

@[simp] theorem emit_ctrl (l : List ToneSample) (s : State) : (emit l s).ctrl = s.ctrl := rfl
@[simp] theorem emit_status (l : List ToneSample) (s : State) : (emit l s).status = s.status := rfl
@[simp] theorem emit_irqEn (l : List ToneSample) (s : State) : (emit l s).irqEn = s.irqEn := rfl
@[simp] theorem emit_modErr (l : List ToneSample) (s : State) : (emit l s).modErr = s.modErr := rfl
@[simp] theorem emit_demErr (l : List ToneSample) (s : State) : (emit l s).demErr = s.demErr := rfl
@[simp] theorem emit_sampleRate (l : List ToneSample) (s : State) : (emit l s).sampleRate = s.sampleRate := rfl
@[simp] theorem emit_baudRate (l : List ToneSample) (s : State) : (emit l s).baudRate = s.baudRate := rfl
@[simp] theorem emit_carrierFreq (l : List ToneSample) (s : State) : (emit l s).carrierFreq = s.carrierFreq := rfl
@[simp] theorem emit_markerFreq (l : List ToneSample) (s : State) : (emit l s).markerFreq = s.markerFreq := rfl
@[simp] theorem emit_markerDurUs (l : List ToneSample) (s : State) : (emit l s).markerDurUs = s.markerDurUs := rfl
@[simp] theorem emit_frameH (l : List ToneSample) (s : State) : (emit l s).frameH = s.frameH := rfl
@[simp] theorem emit_frameW (l : List ToneSample) (s : State) : (emit l s).frameW = s.frameW := rfl
@[simp] theorem emit_toneFreq0 (l : List ToneSample) (s : State) : (emit l s).toneFreq0 = s.toneFreq0 := rfl
@[simp] theorem emit_toneFreq1 (l : List ToneSample) (s : State) : (emit l s).toneFreq1 = s.toneFreq1 := rfl
@[simp] theorem emit_toneFreq2 (l : List ToneSample) (s : State) : (emit l s).toneFreq2 = s.toneFreq2 := rfl
@[simp] theorem emit_toneFreq3 (l : List ToneSample) (s : State) : (emit l s).toneFreq3 = s.toneFreq3 := rfl
@[simp] theorem emit_modNbits (l : List ToneSample) (s : State) : (emit l s).modNbits = s.modNbits := rfl
@[simp] theorem emit_modNsamp (l : List ToneSample) (s : State) : (emit l s).modNsamp = s.modNsamp := rfl
@[simp] theorem emit_demNsamp (l : List ToneSample) (s : State) : (emit l s).demNsamp = s.demNsamp := rfl
@[simp] theorem emit_demNbits (l : List ToneSample) (s : State) : (emit l s).demNbits = s.demNbits := rfl
@[simp] theorem emit_demNsym (l : List ToneSample) (s : State) : (emit l s).demNsym = s.demNsym := rfl
@[simp] theorem emit_demOffset (l : List ToneSample) (s : State) : (emit l s).demOffset = s.demOffset := rfl
@[simp] theorem emit_pixCount (l : List ToneSample) (s : State) : (emit l s).pixCount = s.pixCount := rfl
@[simp] theorem emit_demOp (l : List ToneSample) (s : State) : (emit l s).demOp = s.demOp := rfl
@[simp] theorem emit_mbyte (l : List ToneSample) (s : State) : (emit l s).mbyte = s.mbyte := rfl
@[simp] theorem emit_mpcm (l : List ToneSample) (s : State) : (emit l s).mpcm = s.mpcm := rfl
@[simp] theorem emit_dpcm (l : List ToneSample) (s : State) : (emit l s).dpcm = s.dpcm := rfl
@[simp] theorem emit_dbyte (l : List ToneSample) (s : State) : (emit l s).dbyte = s.dbyte := rfl
@[simp] theorem emit_seqSeg (l : List ToneSample) (s : State) : (emit l s).seqSeg = s.seqSeg + 1 := rfl
@[simp] theorem emit_seqN (l : List ToneSample) (s : State) : (emit l s).seqN = 0 := rfl
@[simp] theorem emit_buf (l : List ToneSample) (s : State) : (emit l s).buf = s.buf ++ l := rfl
@[simp] theorem emit_rst (l : List ToneSample) (s : State) : (emit l s).rst = s.rst := rfl
@[simp] theorem emit_config (l : List ToneSample) (s : State) : (emit l s).config = s.config := rfl
@[simp] theorem emit_script (l : List ToneSample) (s : State) : (emit l s).script = s.script := rfl
@[simp] theorem emit_readLog (l : List ToneSample) (s : State) : (emit l s).readLog = s.readLog := rfl
@[simp] theorem emit_turns (l : List ToneSample) (s : State) : (emit l s).turns = s.turns := rfl
@[simp] theorem emit_direct (l : List ToneSample) (s : State) : (emit l s).direct = s.direct := rfl
@[simp] theorem emit_tick (l : List ToneSample) (s : State) : (emit l s).tick = s.tick := rfl
@[simp] theorem emit_nextGen (l : List ToneSample) (s : State) : (emit l s).nextGen = s.nextGen := rfl

/-! ### `returnData` -/

@[simp] theorem returnData_ctrl (v : Word) (s : State) : (returnData v s).ctrl = s.ctrl := rfl
@[simp] theorem returnData_status (v : Word) (s : State) : (returnData v s).status = s.status := rfl
@[simp] theorem returnData_irqEn (v : Word) (s : State) : (returnData v s).irqEn = s.irqEn := rfl
@[simp] theorem returnData_modErr (v : Word) (s : State) : (returnData v s).modErr = s.modErr := rfl
@[simp] theorem returnData_demErr (v : Word) (s : State) : (returnData v s).demErr = s.demErr := rfl
@[simp] theorem returnData_sampleRate (v : Word) (s : State) : (returnData v s).sampleRate = s.sampleRate := rfl
@[simp] theorem returnData_baudRate (v : Word) (s : State) : (returnData v s).baudRate = s.baudRate := rfl
@[simp] theorem returnData_carrierFreq (v : Word) (s : State) : (returnData v s).carrierFreq = s.carrierFreq := rfl
@[simp] theorem returnData_markerFreq (v : Word) (s : State) : (returnData v s).markerFreq = s.markerFreq := rfl
@[simp] theorem returnData_markerDurUs (v : Word) (s : State) : (returnData v s).markerDurUs = s.markerDurUs := rfl
@[simp] theorem returnData_frameH (v : Word) (s : State) : (returnData v s).frameH = s.frameH := rfl
@[simp] theorem returnData_frameW (v : Word) (s : State) : (returnData v s).frameW = s.frameW := rfl
@[simp] theorem returnData_toneFreq0 (v : Word) (s : State) : (returnData v s).toneFreq0 = s.toneFreq0 := rfl
@[simp] theorem returnData_toneFreq1 (v : Word) (s : State) : (returnData v s).toneFreq1 = s.toneFreq1 := rfl
@[simp] theorem returnData_toneFreq2 (v : Word) (s : State) : (returnData v s).toneFreq2 = s.toneFreq2 := rfl
@[simp] theorem returnData_toneFreq3 (v : Word) (s : State) : (returnData v s).toneFreq3 = s.toneFreq3 := rfl
@[simp] theorem returnData_modNbits (v : Word) (s : State) : (returnData v s).modNbits = s.modNbits := rfl
@[simp] theorem returnData_modNsamp (v : Word) (s : State) : (returnData v s).modNsamp = s.modNsamp := rfl
@[simp] theorem returnData_demNsamp (v : Word) (s : State) : (returnData v s).demNsamp = s.demNsamp := rfl
@[simp] theorem returnData_demNbits (v : Word) (s : State) : (returnData v s).demNbits = s.demNbits := rfl
@[simp] theorem returnData_demNsym (v : Word) (s : State) : (returnData v s).demNsym = s.demNsym := rfl
@[simp] theorem returnData_demOffset (v : Word) (s : State) : (returnData v s).demOffset = s.demOffset := rfl
@[simp] theorem returnData_pixCount (v : Word) (s : State) : (returnData v s).pixCount = s.pixCount := rfl
@[simp] theorem returnData_demOp (v : Word) (s : State) : (returnData v s).demOp = s.demOp := rfl
@[simp] theorem returnData_mbyte (v : Word) (s : State) : (returnData v s).mbyte = s.mbyte := rfl
@[simp] theorem returnData_mpcm (v : Word) (s : State) : (returnData v s).mpcm = s.mpcm := rfl
@[simp] theorem returnData_dpcm (v : Word) (s : State) : (returnData v s).dpcm = s.dpcm := rfl
@[simp] theorem returnData_dbyte (v : Word) (s : State) : (returnData v s).dbyte = s.dbyte := rfl
@[simp] theorem returnData_seqSeg (v : Word) (s : State) : (returnData v s).seqSeg = s.seqSeg := rfl
@[simp] theorem returnData_seqN (v : Word) (s : State) : (returnData v s).seqN = s.seqN := rfl
@[simp] theorem returnData_buf (v : Word) (s : State) : (returnData v s).buf = s.buf := rfl
@[simp] theorem returnData_rst (v : Word) (s : State) : (returnData v s).rst = s.rst := rfl
@[simp] theorem returnData_config (v : Word) (s : State) : (returnData v s).config = s.config := rfl
@[simp] theorem returnData_script (v : Word) (s : State) : (returnData v s).script = s.script := rfl
@[simp] theorem returnData_readLog (v : Word) (s : State) : (returnData v s).readLog = s.readLog ++ [v] := rfl
@[simp] theorem returnData_turns (v : Word) (s : State) : (returnData v s).turns = s.turns := rfl
@[simp] theorem returnData_direct (v : Word) (s : State) : (returnData v s).direct = s.direct := rfl
@[simp] theorem returnData_tick (v : Word) (s : State) : (returnData v s).tick = s.tick := rfl
@[simp] theorem returnData_nextGen (v : Word) (s : State) : (returnData v s).nextGen = s.nextGen := rfl

/-! ### `resetRegisters` -/

@[simp] theorem resetRegisters_ctrl (s : State) : (resetRegisters s).ctrl = 0#32 := rfl
@[simp] theorem resetRegisters_status (s : State) : (resetRegisters s).status = 0#32 := rfl
@[simp] theorem resetRegisters_irqEn (s : State) : (resetRegisters s).irqEn = 0#32 := rfl
@[simp] theorem resetRegisters_modErr (s : State) : (resetRegisters s).modErr = 0#32 := rfl
@[simp] theorem resetRegisters_demErr (s : State) : (resetRegisters s).demErr = 0#32 := rfl
@[simp] theorem resetRegisters_sampleRate (s : State) : (resetRegisters s).sampleRate = 0#32 := rfl
@[simp] theorem resetRegisters_baudRate (s : State) : (resetRegisters s).baudRate = 0#32 := rfl
@[simp] theorem resetRegisters_carrierFreq (s : State) : (resetRegisters s).carrierFreq = 0#32 := rfl
@[simp] theorem resetRegisters_markerFreq (s : State) : (resetRegisters s).markerFreq = 0#32 := rfl
@[simp] theorem resetRegisters_markerDurUs (s : State) : (resetRegisters s).markerDurUs = 0#32 := rfl
@[simp] theorem resetRegisters_frameH (s : State) : (resetRegisters s).frameH = 0#32 := rfl
@[simp] theorem resetRegisters_frameW (s : State) : (resetRegisters s).frameW = 0#32 := rfl
@[simp] theorem resetRegisters_toneFreq0 (s : State) : (resetRegisters s).toneFreq0 = 0#32 := rfl
@[simp] theorem resetRegisters_toneFreq1 (s : State) : (resetRegisters s).toneFreq1 = 0#32 := rfl
@[simp] theorem resetRegisters_toneFreq2 (s : State) : (resetRegisters s).toneFreq2 = 0#32 := rfl
@[simp] theorem resetRegisters_toneFreq3 (s : State) : (resetRegisters s).toneFreq3 = 0#32 := rfl
@[simp] theorem resetRegisters_modNbits (s : State) : (resetRegisters s).modNbits = 0#32 := rfl
@[simp] theorem resetRegisters_modNsamp (s : State) : (resetRegisters s).modNsamp = 0#32 := rfl
@[simp] theorem resetRegisters_demNsamp (s : State) : (resetRegisters s).demNsamp = 0#32 := rfl
@[simp] theorem resetRegisters_demNbits (s : State) : (resetRegisters s).demNbits = 0#32 := rfl
@[simp] theorem resetRegisters_demNsym (s : State) : (resetRegisters s).demNsym = 0#32 := rfl
@[simp] theorem resetRegisters_demOffset (s : State) : (resetRegisters s).demOffset = 0#32 := rfl
@[simp] theorem resetRegisters_pixCount (s : State) : (resetRegisters s).pixCount = 0#32 := rfl
@[simp] theorem resetRegisters_demOp (s : State) : (resetRegisters s).demOp = .demod := rfl
@[simp] theorem resetRegisters_mbyte (s : State) : (resetRegisters s).mbyte = s.mbyte := rfl
@[simp] theorem resetRegisters_mpcm (s : State) : (resetRegisters s).mpcm = s.mpcm := rfl
@[simp] theorem resetRegisters_dpcm (s : State) : (resetRegisters s).dpcm = s.dpcm := rfl
@[simp] theorem resetRegisters_dbyte (s : State) : (resetRegisters s).dbyte = s.dbyte := rfl
@[simp] theorem resetRegisters_seqSeg (s : State) : (resetRegisters s).seqSeg = 0 := rfl
@[simp] theorem resetRegisters_seqN (s : State) : (resetRegisters s).seqN = 0 := rfl
@[simp] theorem resetRegisters_buf (s : State) : (resetRegisters s).buf = [] := rfl
@[simp] theorem resetRegisters_rst (s : State) : (resetRegisters s).rst = s.rst := rfl
@[simp] theorem resetRegisters_config (s : State) : (resetRegisters s).config = s.config := rfl
@[simp] theorem resetRegisters_script (s : State) : (resetRegisters s).script = s.script := rfl
@[simp] theorem resetRegisters_readLog (s : State) : (resetRegisters s).readLog = s.readLog := rfl
@[simp] theorem resetRegisters_turns (s : State) : (resetRegisters s).turns = s.turns := rfl
@[simp] theorem resetRegisters_direct (s : State) : (resetRegisters s).direct = s.direct := rfl
@[simp] theorem resetRegisters_tick (s : State) : (resetRegisters s).tick = s.tick := rfl
@[simp] theorem resetRegisters_nextGen (s : State) : (resetRegisters s).nextGen = s.nextGen := rfl

/-! ### The configuration's quantities depend on the configuration registers only -/

@[simp] theorem sps_raise (b : StatusBit) (s : State) : sps (raise b s) = sps s := rfl
@[simp] theorem markerHalf_raise (b : StatusBit) (s : State) : markerHalf (raise b s) = markerHalf s := rfl
@[simp] theorem markerLen_raise (b : StatusBit) (s : State) : markerLen (raise b s) = markerLen s := rfl
@[simp] theorem cfgOk_raise (b : StatusBit) (s : State) : cfgOk (raise b s) = cfgOk s := rfl
@[simp] theorem symbolCount_raise (b : StatusBit) (s : State) : symbolCount (raise b s) = symbolCount s := rfl
@[simp] theorem frameLen_raise (b : StatusBit) (s : State) : frameLen (raise b s) = frameLen s := rfl
@[simp] theorem payloadBytes_raise (b : StatusBit) (s : State) : payloadBytes (raise b s) = payloadBytes s := rfl
@[simp] theorem markerLowSamples_raise (b : StatusBit) (s : State) : markerLowSamples (raise b s) = markerLowSamples s := rfl
@[simp] theorem markerHighSamples_raise (b : StatusBit) (s : State) : markerHighSamples (raise b s) = markerHighSamples s := rfl
@[simp] theorem markerSamples_raise (b : StatusBit) (s : State) : markerSamples (raise b s) = markerSamples s := rfl
@[simp] theorem frameSamples_raise (b : StatusBit) (s : State) : frameSamples (raise b s) = frameSamples s := rfl
@[simp] theorem segmentList_raise (b : StatusBit) (s : State) : segmentList (raise b s) = segmentList s := rfl
@[simp] theorem captured_raise (b : StatusBit) (s : State) : captured (raise b s) = captured s := rfl
@[simp] theorem capturedPeak_raise (b : StatusBit) (s : State) : capturedPeak (raise b s) = capturedPeak s := rfl
@[simp] theorem pixelCount_raise (b : StatusBit) (s : State) : pixelCount (raise b s) = pixelCount s := rfl
@[simp] theorem recoveredBytes_raise (b : StatusBit) (s : State) : recoveredBytes (raise b s) = recoveredBytes s := rfl
@[simp] theorem symbolSamples_raise (b : StatusBit) (s : State) (c : SymbolCode) : symbolSamples (raise b s) c = symbolSamples s c := rfl
@[simp] theorem spanOf_raise (b : StatusBit) (s : State) (k : Nat) : spanOf (raise b s) k = spanOf s k := rfl
@[simp] theorem windowCount_raise (b : StatusBit) (s : State) (k : Nat) : windowCount (raise b s) k = windowCount s k := rfl
@[simp] theorem byteCount_raise (b : StatusBit) (s : State) (k : Nat) : byteCount (raise b s) k = byteCount s k := rfl
@[simp] theorem fallbackEn_raise (b : StatusBit) (s : State) : (raise b s).fallbackEn = s.fallbackEn := rfl

@[simp] theorem sps_lower (b : StatusBit) (s : State) : sps (lower b s) = sps s := rfl
@[simp] theorem markerHalf_lower (b : StatusBit) (s : State) : markerHalf (lower b s) = markerHalf s := rfl
@[simp] theorem markerLen_lower (b : StatusBit) (s : State) : markerLen (lower b s) = markerLen s := rfl
@[simp] theorem cfgOk_lower (b : StatusBit) (s : State) : cfgOk (lower b s) = cfgOk s := rfl
@[simp] theorem symbolCount_lower (b : StatusBit) (s : State) : symbolCount (lower b s) = symbolCount s := rfl
@[simp] theorem frameLen_lower (b : StatusBit) (s : State) : frameLen (lower b s) = frameLen s := rfl
@[simp] theorem payloadBytes_lower (b : StatusBit) (s : State) : payloadBytes (lower b s) = payloadBytes s := rfl
@[simp] theorem markerLowSamples_lower (b : StatusBit) (s : State) : markerLowSamples (lower b s) = markerLowSamples s := rfl
@[simp] theorem markerHighSamples_lower (b : StatusBit) (s : State) : markerHighSamples (lower b s) = markerHighSamples s := rfl
@[simp] theorem markerSamples_lower (b : StatusBit) (s : State) : markerSamples (lower b s) = markerSamples s := rfl
@[simp] theorem frameSamples_lower (b : StatusBit) (s : State) : frameSamples (lower b s) = frameSamples s := rfl
@[simp] theorem segmentList_lower (b : StatusBit) (s : State) : segmentList (lower b s) = segmentList s := rfl
@[simp] theorem captured_lower (b : StatusBit) (s : State) : captured (lower b s) = captured s := rfl
@[simp] theorem capturedPeak_lower (b : StatusBit) (s : State) : capturedPeak (lower b s) = capturedPeak s := rfl
@[simp] theorem pixelCount_lower (b : StatusBit) (s : State) : pixelCount (lower b s) = pixelCount s := rfl
@[simp] theorem recoveredBytes_lower (b : StatusBit) (s : State) : recoveredBytes (lower b s) = recoveredBytes s := rfl
@[simp] theorem symbolSamples_lower (b : StatusBit) (s : State) (c : SymbolCode) : symbolSamples (lower b s) c = symbolSamples s c := rfl
@[simp] theorem spanOf_lower (b : StatusBit) (s : State) (k : Nat) : spanOf (lower b s) k = spanOf s k := rfl
@[simp] theorem windowCount_lower (b : StatusBit) (s : State) (k : Nat) : windowCount (lower b s) k = windowCount s k := rfl
@[simp] theorem byteCount_lower (b : StatusBit) (s : State) (k : Nat) : byteCount (lower b s) k = byteCount s k := rfl
@[simp] theorem fallbackEn_lower (b : StatusBit) (s : State) : (lower b s).fallbackEn = s.fallbackEn := rfl

@[simp] theorem sps_writeOneToClear (v : Word) (s : State) : sps (writeOneToClear v s) = sps s := rfl
@[simp] theorem markerHalf_writeOneToClear (v : Word) (s : State) : markerHalf (writeOneToClear v s) = markerHalf s := rfl
@[simp] theorem markerLen_writeOneToClear (v : Word) (s : State) : markerLen (writeOneToClear v s) = markerLen s := rfl
@[simp] theorem cfgOk_writeOneToClear (v : Word) (s : State) : cfgOk (writeOneToClear v s) = cfgOk s := rfl
@[simp] theorem symbolCount_writeOneToClear (v : Word) (s : State) : symbolCount (writeOneToClear v s) = symbolCount s := rfl
@[simp] theorem frameLen_writeOneToClear (v : Word) (s : State) : frameLen (writeOneToClear v s) = frameLen s := rfl
@[simp] theorem payloadBytes_writeOneToClear (v : Word) (s : State) : payloadBytes (writeOneToClear v s) = payloadBytes s := rfl
@[simp] theorem markerLowSamples_writeOneToClear (v : Word) (s : State) : markerLowSamples (writeOneToClear v s) = markerLowSamples s := rfl
@[simp] theorem markerHighSamples_writeOneToClear (v : Word) (s : State) : markerHighSamples (writeOneToClear v s) = markerHighSamples s := rfl
@[simp] theorem markerSamples_writeOneToClear (v : Word) (s : State) : markerSamples (writeOneToClear v s) = markerSamples s := rfl
@[simp] theorem frameSamples_writeOneToClear (v : Word) (s : State) : frameSamples (writeOneToClear v s) = frameSamples s := rfl
@[simp] theorem segmentList_writeOneToClear (v : Word) (s : State) : segmentList (writeOneToClear v s) = segmentList s := rfl
@[simp] theorem captured_writeOneToClear (v : Word) (s : State) : captured (writeOneToClear v s) = captured s := rfl
@[simp] theorem capturedPeak_writeOneToClear (v : Word) (s : State) : capturedPeak (writeOneToClear v s) = capturedPeak s := rfl
@[simp] theorem pixelCount_writeOneToClear (v : Word) (s : State) : pixelCount (writeOneToClear v s) = pixelCount s := rfl
@[simp] theorem recoveredBytes_writeOneToClear (v : Word) (s : State) : recoveredBytes (writeOneToClear v s) = recoveredBytes s := rfl
@[simp] theorem symbolSamples_writeOneToClear (v : Word) (s : State) (c : SymbolCode) : symbolSamples (writeOneToClear v s) c = symbolSamples s c := rfl
@[simp] theorem spanOf_writeOneToClear (v : Word) (s : State) (k : Nat) : spanOf (writeOneToClear v s) k = spanOf s k := rfl
@[simp] theorem windowCount_writeOneToClear (v : Word) (s : State) (k : Nat) : windowCount (writeOneToClear v s) k = windowCount s k := rfl
@[simp] theorem byteCount_writeOneToClear (v : Word) (s : State) (k : Nat) : byteCount (writeOneToClear v s) k = byteCount s k := rfl
@[simp] theorem fallbackEn_writeOneToClear (v : Word) (s : State) : (writeOneToClear v s).fallbackEn = s.fallbackEn := rfl

@[simp] theorem sps_idleSequencer (s : State) : sps (idleSequencer s) = sps s := rfl
@[simp] theorem markerHalf_idleSequencer (s : State) : markerHalf (idleSequencer s) = markerHalf s := rfl
@[simp] theorem markerLen_idleSequencer (s : State) : markerLen (idleSequencer s) = markerLen s := rfl
@[simp] theorem cfgOk_idleSequencer (s : State) : cfgOk (idleSequencer s) = cfgOk s := rfl
@[simp] theorem symbolCount_idleSequencer (s : State) : symbolCount (idleSequencer s) = symbolCount s := rfl
@[simp] theorem frameLen_idleSequencer (s : State) : frameLen (idleSequencer s) = frameLen s := rfl
@[simp] theorem payloadBytes_idleSequencer (s : State) : payloadBytes (idleSequencer s) = payloadBytes s := rfl
@[simp] theorem markerLowSamples_idleSequencer (s : State) : markerLowSamples (idleSequencer s) = markerLowSamples s := rfl
@[simp] theorem markerHighSamples_idleSequencer (s : State) : markerHighSamples (idleSequencer s) = markerHighSamples s := rfl
@[simp] theorem markerSamples_idleSequencer (s : State) : markerSamples (idleSequencer s) = markerSamples s := rfl
@[simp] theorem frameSamples_idleSequencer (s : State) : frameSamples (idleSequencer s) = frameSamples s := rfl
@[simp] theorem segmentList_idleSequencer (s : State) : segmentList (idleSequencer s) = segmentList s := rfl
@[simp] theorem captured_idleSequencer (s : State) : captured (idleSequencer s) = captured s := rfl
@[simp] theorem capturedPeak_idleSequencer (s : State) : capturedPeak (idleSequencer s) = capturedPeak s := rfl
@[simp] theorem pixelCount_idleSequencer (s : State) : pixelCount (idleSequencer s) = pixelCount s := rfl
@[simp] theorem recoveredBytes_idleSequencer (s : State) : recoveredBytes (idleSequencer s) = recoveredBytes s := rfl
@[simp] theorem symbolSamples_idleSequencer (s : State) (c : SymbolCode) : symbolSamples (idleSequencer s) c = symbolSamples s c := rfl
@[simp] theorem spanOf_idleSequencer (s : State) (k : Nat) : spanOf (idleSequencer s) k = spanOf s k := rfl
@[simp] theorem windowCount_idleSequencer (s : State) (k : Nat) : windowCount (idleSequencer s) k = windowCount s k := rfl
@[simp] theorem byteCount_idleSequencer (s : State) (k : Nat) : byteCount (idleSequencer s) k = byteCount s k := rfl
@[simp] theorem fallbackEn_idleSequencer (s : State) : (idleSequencer s).fallbackEn = s.fallbackEn := rfl

@[simp] theorem sps_emit (l : List ToneSample) (s : State) : sps (emit l s) = sps s := rfl
@[simp] theorem markerHalf_emit (l : List ToneSample) (s : State) : markerHalf (emit l s) = markerHalf s := rfl
@[simp] theorem markerLen_emit (l : List ToneSample) (s : State) : markerLen (emit l s) = markerLen s := rfl
@[simp] theorem cfgOk_emit (l : List ToneSample) (s : State) : cfgOk (emit l s) = cfgOk s := rfl
@[simp] theorem symbolCount_emit (l : List ToneSample) (s : State) : symbolCount (emit l s) = symbolCount s := rfl
@[simp] theorem frameLen_emit (l : List ToneSample) (s : State) : frameLen (emit l s) = frameLen s := rfl
@[simp] theorem payloadBytes_emit (l : List ToneSample) (s : State) : payloadBytes (emit l s) = payloadBytes s := rfl
@[simp] theorem markerLowSamples_emit (l : List ToneSample) (s : State) : markerLowSamples (emit l s) = markerLowSamples s := rfl
@[simp] theorem markerHighSamples_emit (l : List ToneSample) (s : State) : markerHighSamples (emit l s) = markerHighSamples s := rfl
@[simp] theorem markerSamples_emit (l : List ToneSample) (s : State) : markerSamples (emit l s) = markerSamples s := rfl
@[simp] theorem frameSamples_emit (l : List ToneSample) (s : State) : frameSamples (emit l s) = frameSamples s := rfl
@[simp] theorem segmentList_emit (l : List ToneSample) (s : State) : segmentList (emit l s) = segmentList s := rfl
@[simp] theorem captured_emit (l : List ToneSample) (s : State) : captured (emit l s) = captured s := rfl
@[simp] theorem capturedPeak_emit (l : List ToneSample) (s : State) : capturedPeak (emit l s) = capturedPeak s := rfl
@[simp] theorem pixelCount_emit (l : List ToneSample) (s : State) : pixelCount (emit l s) = pixelCount s := rfl
@[simp] theorem recoveredBytes_emit (l : List ToneSample) (s : State) : recoveredBytes (emit l s) = recoveredBytes s := rfl
@[simp] theorem symbolSamples_emit (l : List ToneSample) (s : State) (c : SymbolCode) : symbolSamples (emit l s) c = symbolSamples s c := rfl
@[simp] theorem spanOf_emit (l : List ToneSample) (s : State) (k : Nat) : spanOf (emit l s) k = spanOf s k := rfl
@[simp] theorem windowCount_emit (l : List ToneSample) (s : State) (k : Nat) : windowCount (emit l s) k = windowCount s k := rfl
@[simp] theorem byteCount_emit (l : List ToneSample) (s : State) (k : Nat) : byteCount (emit l s) k = byteCount s k := rfl
@[simp] theorem fallbackEn_emit (l : List ToneSample) (s : State) : (emit l s).fallbackEn = s.fallbackEn := rfl

@[simp] theorem sps_returnData (v : Word) (s : State) : sps (returnData v s) = sps s := rfl
@[simp] theorem markerHalf_returnData (v : Word) (s : State) : markerHalf (returnData v s) = markerHalf s := rfl
@[simp] theorem markerLen_returnData (v : Word) (s : State) : markerLen (returnData v s) = markerLen s := rfl
@[simp] theorem cfgOk_returnData (v : Word) (s : State) : cfgOk (returnData v s) = cfgOk s := rfl
@[simp] theorem symbolCount_returnData (v : Word) (s : State) : symbolCount (returnData v s) = symbolCount s := rfl
@[simp] theorem frameLen_returnData (v : Word) (s : State) : frameLen (returnData v s) = frameLen s := rfl
@[simp] theorem payloadBytes_returnData (v : Word) (s : State) : payloadBytes (returnData v s) = payloadBytes s := rfl
@[simp] theorem markerLowSamples_returnData (v : Word) (s : State) : markerLowSamples (returnData v s) = markerLowSamples s := rfl
@[simp] theorem markerHighSamples_returnData (v : Word) (s : State) : markerHighSamples (returnData v s) = markerHighSamples s := rfl
@[simp] theorem markerSamples_returnData (v : Word) (s : State) : markerSamples (returnData v s) = markerSamples s := rfl
@[simp] theorem frameSamples_returnData (v : Word) (s : State) : frameSamples (returnData v s) = frameSamples s := rfl
@[simp] theorem segmentList_returnData (v : Word) (s : State) : segmentList (returnData v s) = segmentList s := rfl
@[simp] theorem captured_returnData (v : Word) (s : State) : captured (returnData v s) = captured s := rfl
@[simp] theorem capturedPeak_returnData (v : Word) (s : State) : capturedPeak (returnData v s) = capturedPeak s := rfl
@[simp] theorem pixelCount_returnData (v : Word) (s : State) : pixelCount (returnData v s) = pixelCount s := rfl
@[simp] theorem recoveredBytes_returnData (v : Word) (s : State) : recoveredBytes (returnData v s) = recoveredBytes s := rfl
@[simp] theorem symbolSamples_returnData (v : Word) (s : State) (c : SymbolCode) : symbolSamples (returnData v s) c = symbolSamples s c := rfl
@[simp] theorem spanOf_returnData (v : Word) (s : State) (k : Nat) : spanOf (returnData v s) k = spanOf s k := rfl
@[simp] theorem windowCount_returnData (v : Word) (s : State) (k : Nat) : windowCount (returnData v s) k = windowCount s k := rfl
@[simp] theorem byteCount_returnData (v : Word) (s : State) (k : Nat) : byteCount (returnData v s) k = byteCount s k := rfl
@[simp] theorem fallbackEn_returnData (v : Word) (s : State) : (returnData v s).fallbackEn = s.fallbackEn := rfl

end Sys2Proof.Machine
end

