-- ==== Sys2Proof/Laws/Flags.lean ====
section
/-! SUPPORT. What raising, lowering and clearing do to each field of STATUS. -/

namespace Sys2Proof.Machine

theorem StatusBit.index_lt (b : StatusBit) : b.index < 13 := by cases b <;> decide

theorem StatusBit.index_inj {b c : StatusBit} : b.index = c.index ↔ b = c := by
  cases b <;> cases c <;> decide

/-- The bits of a field's mask. -/
theorem StatusBit.getLsbD_mask (b : StatusBit) (i : Nat) :
    b.mask.getLsbD i = decide (i = b.index) := by
  have hb := b.index_lt
  by_cases hi : i < 32
  · simp only [StatusBit.mask, BitVec.getLsbD_shiftLeft, BitVec.getLsbD_one, hi]
    by_cases h : i < b.index
    · simp [h]; omega
    · simp only [h, decide_true, Bool.true_and, decide_false, Bool.not_false]
      simp only [show (0 < 32) = True by simp, decide_true, Bool.true_and]
      congr 1
      apply propext
      omega
  · rw [BitVec.getLsbD_of_ge _ _ (by omega)]
    simp
    omega

/-- The bits of `stickyMask` are 12:2. -/
theorem getLsbD_stickyMask (i : Nat) : stickyMask.getLsbD i = (decide (2 ≤ i) && decide (i ≤ 12)) := by
  by_cases hi : i < 32
  · interval_cases i <;> decide
  · rw [BitVec.getLsbD_of_ge _ _ (by omega)]
    simp
    omega

/-- The bits of `statusMask` are 12:0. -/
theorem getLsbD_statusMask (i : Nat) : statusMask.getLsbD i = decide (i ≤ 12) := by
  by_cases hi : i < 32
  · interval_cases i <;> decide
  · rw [BitVec.getLsbD_of_ge _ _ (by omega)]
    simp
    omega

/-- Raising a flag sets that field and no other. -/
@[simp] theorem flag_raise (b c : StatusBit) (s : State) :
    (raise b s).flag c = (s.flag c || decide (c = b)) := by
  simp only [State.flag, raise_status, BitVec.getLsbD_or, StatusBit.getLsbD_mask, StatusBit.index_inj]

/-- Lowering a field clears it and no other. -/
@[simp] theorem flag_lower (b c : StatusBit) (s : State) :
    (lower b s).flag c = (s.flag c && !decide (c = b)) := by
  have hc : c.index < 32 := lt_trans c.index_lt (by decide)
  simp only [State.flag, lower_status, BitVec.getLsbD_and, BitVec.getLsbD_not, hc, decide_true,
    Bool.true_and, StatusBit.getLsbD_mask, StatusBit.index_inj]

@[simp] theorem busy_raise (b : StatusBit) (e : Engine) (s : State) :
    (raise b s).busy e = (s.busy e || decide (e.busyBit = b)) := flag_raise b e.busyBit s

@[simp] theorem busy_lower (b : StatusBit) (e : Engine) (s : State) :
    (lower b s).busy e = (s.busy e && !decide (e.busyBit = b)) := flag_lower b e.busyBit s

/-- A write to STATUS leaves the BUSY fields alone (R263). -/
@[simp] theorem busy_writeOneToClear (v : Word) (e : Engine) (s : State) :
    (writeOneToClear v s).busy e = s.busy e := by
  have h : stickyMask.getLsbD e.busyBit.index = false := by cases e <;> decide
  have he : e.busyBit.index < 32 := lt_trans e.busyBit.index_lt (by decide)
  simp only [State.busy, State.flag, writeOneToClear_status, BitVec.getLsbD_and, BitVec.getLsbD_not,
    he, decide_true, h, Bool.and_false, Bool.not_false, Bool.and_true]

theorem busy_mod_eq (s : State) : s.busy .mod = s.status.getLsbD 0 := rfl

theorem busy_dem_eq (s : State) : s.busy .dem = s.status.getLsbD 1 := rfl

@[simp] theorem busy_idleSequencer (e : Engine) (s : State) : (idleSequencer s).busy e = s.busy e := rfl

@[simp] theorem busy_emit (l : List ToneSample) (e : Engine) (s : State) :
    (emit l s).busy e = s.busy e := rfl

@[simp] theorem busy_returnData (v : Word) (e : Engine) (s : State) :
    (returnData v s).busy e = s.busy e := rfl

@[simp] theorem busy_resetRegisters (e : Engine) (s : State) : (resetRegisters s).busy e = false := by
  simp [State.busy, State.flag]

@[simp] theorem anyBusy_raise_sticky (b : StatusBit) (s : State) (h : 2 ≤ b.index) :
    (raise b s).anyBusy = s.anyBusy := by
  have h0 : StatusBit.modBusy ≠ b := by rintro rfl; simp [StatusBit.index] at h
  have h1 : StatusBit.demBusy ≠ b := by rintro rfl; simp [StatusBit.index] at h
  simp [State.anyBusy, Engine.busyBit, h0, h1]

/-- The output `irq` is some enabled sticky flag (R305). -/
theorem irq_iff (s : State) : s.irq = true ↔
    ∃ i, 2 ≤ i ∧ i ≤ 12 ∧ s.status.getLsbD i = true ∧ s.irqEn.getLsbD i = true := by
  have key : s.irq = true ↔ ∃ i, (s.status &&& s.irqEn &&& stickyMask).getLsbD i = true := by
    unfold State.irq
    constructor
    · intro h
      by_contra hn
      push Not at hn
      have : s.status &&& s.irqEn &&& stickyMask = 0#32 := by
        apply BitVec.eq_of_getLsbD_eq
        intro i _
        simpa using hn i
      simp [this] at h
    · rintro ⟨i, hi⟩
      simp only [bne_iff_ne, ne_eq]
      intro h0
      rw [h0] at hi
      simp at hi
  rw [key]
  refine exists_congr fun i => ?_
  simp only [BitVec.getLsbD_and, getLsbD_stickyMask, Bool.and_eq_true, decide_eq_true_eq]
  tauto

end Sys2Proof.Machine
end

