-- ==== Sys2Proof/Laws/Memory.lean ====
section
/-! SUPPORT. The laws of memories: a store is read back and leaves every other cell alone; the canonical
form is kept by every operation and the reset state has it. -/

namespace Sys2Proof.Machine

variable {w : Nat}

/-- Looking up an index of an appended list. -/
theorem lookup_append_eq {α : Type} (l₁ l₂ : List (Nat × α)) (i : Nat) :
    (l₁ ++ l₂).lookup i = (l₁.lookup i).or (l₂.lookup i) := by
  induction l₁ with
  | nil => simp
  | cons p rest ih =>
    obtain ⟨j, v⟩ := p
    by_cases h : i = j
    · subst h; simp
    · have hb : (i == j) = false := by simpa using h
      simp [List.lookup, hb, ih]

/-- A key that a filter keeps is looked up as before. -/
theorem lookup_filter_of_pos {α : Type} (l : List (Nat × α)) (q : Nat → Bool) (i : Nat) (h : q i = true) :
    (l.filter (fun p => q p.1)).lookup i = l.lookup i := by
  induction l with
  | nil => rfl
  | cons p rest ih =>
    obtain ⟨j, v⟩ := p
    by_cases hij : i = j
    · subst hij; simp [h]
    · have hb : (i == j) = false := by simpa using hij
      by_cases hq : q j = true
      · simp [hq, List.lookup, hb, ih]
      · simp [hq, List.lookup, hb, ih]

/-- A key that a filter drops is not found. -/
theorem lookup_filter_of_neg {α : Type} (l : List (Nat × α)) (q : Nat → Bool) (i : Nat) (h : q i = false) :
    (l.filter (fun p => q p.1)).lookup i = none := by
  induction l with
  | nil => rfl
  | cons p rest ih =>
    obtain ⟨j, v⟩ := p
    by_cases hq : q j = true
    · have hij : i ≠ j := by rintro rfl; simp [h] at hq
      have hb : (i == j) = false := by simpa using hij
      simp [hq, List.lookup, hb, ih]
    · simp [hq, ih]

/-- Looking up an index among consecutive numbered values. -/
theorem lookup_mapIdx {α : Type} (vs : List α) (base i : Nat) :
    (vs.mapIdx fun k v => (base + k, v)).lookup i =
      if base ≤ i then vs[i - base]? else none := by
  induction vs generalizing base with
  | nil => simp
  | cons v rest ih =>
    have hshift : (fun k (v : α) => (base + (k + 1), v)) = fun k v => (base + 1 + k, v) := by
      funext k v; congr 1; omega
    rw [List.mapIdx_cons, hshift]
    by_cases h : i = base
    · subst h; simp
    · have hb : (i == base + 0) = false := by simpa using h
      rw [List.lookup, hb, ih]
      by_cases hle : base ≤ i
      · have h1 : base + 1 ≤ i := by omega
        have h2 : i - base = (i - (base + 1)) + 1 := by omega
        simp [hle, h1, h2]
      · have h1 : ¬ base + 1 ≤ i := by omega
        simp [hle, h1]

/-- What a store leaves in a cell: the stored value inside the stored range, the old content outside. -/
theorem read_store (m : Memory w) (base i : Nat) (vs : List (BitVec w)) :
    (m.store base vs).read i =
      if base ≤ i ∧ i < base + vs.length then vs.getD (i - base) 0#w else m.read i := by
  unfold Memory.read Memory.store
  simp only [lookup_append_eq, lookup_mapIdx]
  by_cases hlow : i < base
  · rw [lookup_filter_of_pos _ (fun k => decide (k < base)) i (by simpa using hlow),
      lookup_filter_of_neg _ (fun k => decide (base + vs.length ≤ k)) i (by simp; omega)]
    have h1 : ¬ base ≤ i := by omega
    simp [h1]
  · rw [lookup_filter_of_neg _ (fun k => decide (k < base)) i (by simpa using hlow)]
    by_cases hhigh : base + vs.length ≤ i
    · rw [lookup_filter_of_pos _ (fun k => decide (base + vs.length ≤ k)) i (by simpa using hhigh)]
      have h1 : vs.length ≤ i - base := by omega
      have h2 : ¬ i < base + vs.length := by omega
      simp [h1, h2]
    · rw [lookup_filter_of_neg _ (fun k => decide (base + vs.length ≤ k)) i (by simpa using hhigh)]
      have h1 : i - base < vs.length := by omega
      have h2 : i < base + vs.length := by omega
      have h3 : base ≤ i := by omega
      simp [h1, h2, h3]

/-- A read after a write to the same cell gives the value written. -/
@[simp] theorem read_write_same (m : Memory w) (i : Nat) (v : BitVec w) : (m.write i v).read i = v := by
  simp [Memory.write, read_store]

/-- A write leaves every other cell alone. -/
theorem read_write_other (m : Memory w) {i j : Nat} (v : BitVec w) (h : j ≠ i) :
    (m.write i v).read j = m.read j := by
  have : ¬ (i ≤ j ∧ j < i + 1) := by omega
  rw [Memory.write, read_store, List.length_singleton, if_neg this]

/-- A store keeps the number of the unspecified content. -/
@[simp] theorem gen_store (m : Memory w) (base : Nat) (vs : List (BitVec w)) :
    (m.store base vs).gen = m.gen := rfl

/-- The indices of consecutive numbered values. -/
theorem mem_mapIdx_index {α : Type} {vs : List α} {base : Nat} {p : Nat × α}
    (h : p ∈ vs.mapIdx fun k v => (base + k, v)) : base ≤ p.1 ∧ p.1 < base + vs.length := by
  obtain ⟨k, hk, rfl⟩ := List.mem_mapIdx.1 h
  exact ⟨by simp, by simpa using hk⟩

/-- Consecutive numbered values have rising indices. -/
theorem pairwise_mapIdx {α : Type} (vs : List α) (base : Nat) :
    (vs.mapIdx fun k v => (base + k, v)).Pairwise fun p q => p.1 < q.1 := by
  rw [List.pairwise_iff_getElem]
  intro i j hi hj hij
  simpa using hij

/-- A store keeps the canonical form. -/
theorem store_wf (m : Memory w) (base : Nat) (vs : List (BitVec w)) (h : m.wf) :
    (m.store base vs).wf := by
  unfold Memory.wf Memory.store
  simp only [List.append_assoc]
  refine List.pairwise_append.2 ⟨h.filter _, List.pairwise_append.2
    ⟨pairwise_mapIdx vs base, h.filter _, ?_⟩, ?_⟩
  · intro p hp q hq
    have h1 := mem_mapIdx_index hp
    have h2 := (List.mem_filter.1 hq).2
    simp at h2
    omega
  · intro p hp q hq
    have h1 := (List.mem_filter.1 hp).2
    simp at h1
    rcases List.mem_append.1 hq with hq | hq
    · have h2 := mem_mapIdx_index hq
      omega
    · have h2 := (List.mem_filter.1 hq).2
      simp at h2
      omega

/-- A write keeps the canonical form. -/
theorem write_wf (m : Memory w) (i : Nat) (v : BitVec w) (h : m.wf) : (m.write i v).wf :=
  store_wf m i [v] h

/-- An unspecified memory is in canonical form. -/
@[simp] theorem unspecified_wf (w gen : Nat) : (Memory.unspecified w gen).wf := List.Pairwise.nil

/-- A store inside a capacity lists no cell outside it. -/
theorem store_within (m : Memory w) (base cap : Nat) (vs : List (BitVec w)) (h : m.within cap)
    (hfit : vs = [] ∨ base + vs.length ≤ cap) : (m.store base vs).within cap := by
  intro p hp
  simp only [Memory.store, List.mem_append] at hp
  rcases hp with (hp | hp) | hp
  · exact h p (List.mem_filter.1 hp).1
  · have h1 := mem_mapIdx_index hp
    rcases hfit with rfl | hfit
    · simp at hp
    · omega
  · exact h p (List.mem_filter.1 hp).1

/-- An unspecified memory lists no cell. -/
theorem unspecified_within (w gen cap : Nat) : (Memory.unspecified w gen).within cap := by
  intro p hp
  simp [Memory.unspecified] at hp

/-- The four memories are in canonical form after reset. -/
theorem reset_memories_wf :
    State.reset.mbyte.wf ∧ State.reset.mpcm.wf ∧ State.reset.dpcm.wf ∧ State.reset.dbyte.wf := by
  decide

end Sys2Proof.Machine
end

