-- ==== Sys2Proof/Laws/Bus.lean ====
section
/-! SUPPORT. What a bus transaction can do, said once: where an address leads, and every way a read, a
register write, a command and a write can end. -/

namespace Sys2Proof.Machine

/-- Where an address leads: a register of region 0, or a cell below its memory's capacity (R86). -/
theorem target_spec (c : Config) (region : BitVec 4) (index : BitVec 20) :
    match target c region index with
    | some (.reg r) => region = 0x0#4 ∧ Reg.ofIndex index.toNat = some r
    | some (.mbyte i) => region = 0x1#4 ∧ i = index.toNat ∧ i < c.capMbyte
    | some (.mpcm i) => region = 0x2#4 ∧ i = index.toNat ∧ i < c.capMpcm
    | some (.dpcm i) => region = 0x3#4 ∧ i = index.toNat ∧ i < c.capDpcm
    | some (.dbyte i) => region = 0x4#4 ∧ i = index.toNat ∧ i < c.capDbyte
    | none => True := by
  unfold target
  by_cases h0 : region = 0x0#4
  · simp only [h0, if_true]
    cases h : Reg.ofIndex index.toNat <;> simp
  · simp only [h0, if_false]
    split_ifs <;> simp_all

/-- The map of registers is one of indices to registers and back (R21). -/
theorem ofIndex_index (r : Reg) : Reg.ofIndex r.index = some r := by cases r <;> rfl

/-- Every way a read of a cell of an owned memory can end (R91). -/
theorem readOwned_cases (e : Engine) (data : Word) (s : State) :
    (s.busy e = true ∧ readOwned e data s = (0#32, raise .busyViolation s)) ∨
      (s.busy e = false ∧ readOwned e data s = (data, s)) := by
  unfold readOwned
  cases h : s.busy e <;> simp

/-- A read leaves the state alone but for one refusal flag (R77, R262). -/
theorem busRead_state (region : BitVec 4) (index : BitVec 20) (s : State) :
    (busRead region index s).2 = s ∨
      (busRead region index s = (0#32, raise .busErr s)) ∨
      (s.anyBusy = true ∧ busRead region index s = (0#32, raise .busyViolation s)) := by
  unfold busRead
  cases target s.config region index with
  | none => simp
  | some t =>
    cases t with
    | reg r => simp
    | mbyte i =>
      rcases readOwned_cases .mod (busOfByte (s.mbyte.read i)) s with ⟨h, e⟩ | ⟨h, e⟩ <;>
        simp [e, State.anyBusy, h]
    | mpcm i =>
      rcases readOwned_cases .mod (busOfPcm (s.mpcm.read i)) s with ⟨h, e⟩ | ⟨h, e⟩ <;>
        simp [e, State.anyBusy, h]
    | dpcm i =>
      rcases readOwned_cases .dem (busOfPcm (s.dpcm.read i)) s with ⟨h, e⟩ | ⟨h, e⟩ <;>
        simp [e, State.anyBusy, h]
    | dbyte i =>
      rcases readOwned_cases .dem (busOfByte (s.dbyte.read i)) s with ⟨h, e⟩ | ⟨h, e⟩ <;>
        simp [e, State.anyBusy, h]

/-- Every way a write can end (R261 to R264): refused with one flag, a command, a register stored, a cell
stored. -/
theorem busWrite_cases (region : BitVec 4) (index : BitVec 20) (v : Word) (s : State) :
    (busWrite region index v s = raise .busErr s) ∨
    (busWrite region index v s = raise .busyViolation s) ∨
    (region = 0x0#4 ∧ index.toNat = 0x01 ∧
      busWrite region index v s = runCommand (decodeCommand v) s) ∨
    (∃ r, region = 0x0#4 ∧ Reg.ofIndex index.toNat = some r ∧ r.access ≠ .ro ∧ r ≠ .cmd ∧
      r.lock.holds s = false ∧ busWrite region index v s = storeReg r v s) ∨
    (region = 0x1#4 ∧ index.toNat < s.config.capMbyte ∧ s.busy .mod = false ∧
      busWrite region index v s = { s with mbyte := s.mbyte.write index.toNat (byteOfBus v) }) ∨
    (region = 0x3#4 ∧ index.toNat < s.config.capDpcm ∧ s.busy .dem = false ∧
      busWrite region index v s = { s with dpcm := s.dpcm.write index.toNat (pcmOfBus v) }) := by
  have hspec := target_spec s.config region index
  unfold busWrite
  cases ht : target s.config region index with
  | none => simp
  | some t =>
    rw [ht] at hspec
    cases t with
    | reg r =>
      obtain ⟨hr, hi⟩ := hspec
      dsimp only
      by_cases ha : r.access = .ro
      · simp [ha]
      · simp only [ha, if_false, regWrite]
        by_cases hl : r.lock.holds s = true
        · simp [hl]
        · have hl' : r.lock.holds s = false := by simpa using hl
          by_cases hc : r = .cmd
          · subst hc
            refine Or.inr (Or.inr (Or.inl ⟨hr, ?_, by simp [hl']⟩))
            generalize index.toNat = n at hi
            unfold Reg.ofIndex at hi
            split at hi <;> simp_all
          · refine Or.inr (Or.inr (Or.inr (Or.inl ⟨r, hr, hi, ha, hc, hl', by simp [hl', hc]⟩)))
    | mbyte i =>
      obtain ⟨hr, rfl, hi⟩ := hspec
      cases hb : s.busy .mod <;> simp [hr, hi]
    | mpcm i => simp
    | dpcm i =>
      obtain ⟨hr, rfl, hi⟩ := hspec
      cases hb : s.busy .dem <;> simp [hr, hi]
    | dbyte i => simp

/-- Every way a command can end (R270 to R276). -/
theorem runCommand_cases (c : Command) (s : State) :
    (runCommand c s = s) ∨ (runCommand c s = raise .busyViolation s) ∨
    (c = .modStart ∧ s.busy .mod = false ∧ runCommand c s = raise .modBusy (idleSequencer s)) ∨
    (c = .demStart ∧ s.busy .dem = false ∧
      runCommand c s = raise .demBusy { s with demOp := .demod }) ∨
    (c = .pixFmt ∧ s.busy .dem = false ∧ runCommand c s = raise .demBusy { s with demOp := .pix }) ∨
    (c = .softReset ∧ runCommand c s = softReset s) ∨
    (runCommand c s = raise .illegalCmd s) := by
  cases c with
  | nop => exact Or.inl rfl
  | modStart => cases h : s.busy .mod <;> simp [runCommand, runModStart, h]
  | demStart => cases h : s.busy .dem <;> simp [runCommand, runDemStart, h]
  | pixFmt => cases h : s.busy .dem <;> simp [runCommand, runPixFmt, h]
  | softReset => simp [runCommand, runSoftReset]
  | illegal zero op => simp [runCommand, runIllegalCmd]

end Sys2Proof.Machine
end

