-- ==== Sys2Proof/Laws/Codec.lean ====
section
/-! SUPPORT. The laws of bit packing (46_payload_codec.md). -/

namespace Sys2Proof.Machine

/-- The bits of a packed byte, the first the most significant. -/
theorem getLsbD_byteOfBits (b0 b1 b2 b3 b4 b5 b6 b7 : Bool) (t : Nat) (ht : t < 8) :
    (byteOfBits b0 b1 b2 b3 b4 b5 b6 b7).getLsbD (7 - t) =
      [b0, b1, b2, b3, b4, b5, b6, b7].getD t false := by
  interval_cases t <;> revert b0 b1 b2 b3 b4 b5 b6 b7 <;> decide

/-- A byte is the packing of its bits. -/
theorem byteOfBits_bits (b : Byte) :
    byteOfBits (b.getLsbD 7) (b.getLsbD 6) (b.getLsbD 5) (b.getLsbD 4) (b.getLsbD 3) (b.getLsbD 2)
      (b.getLsbD 1) (b.getLsbD 0) = b := by
  apply BitVec.eq_of_getLsbD_eq
  intro i hi
  have h := getLsbD_byteOfBits (b.getLsbD 7) (b.getLsbD 6) (b.getLsbD 5) (b.getLsbD 4) (b.getLsbD 3)
    (b.getLsbD 2) (b.getLsbD 1) (b.getLsbD 0) (7 - i) (by omega)
  rw [show 7 - (7 - i) = i by omega] at h
  rw [h]
  interval_cases i <;> rfl

/-- The eight bits of a byte, written out. -/
theorem bitsOfByte_eq (b : Byte) :
    bitsOfByte b = [b.getLsbD 7, b.getLsbD 6, b.getLsbD 5, b.getLsbD 4, b.getLsbD 3, b.getLsbD 2,
      b.getLsbD 1, b.getLsbD 0] := rfl

@[simp] theorem length_bitsOfByte (b : Byte) : (bitsOfByte b).length = 8 := by simp [bitsOfByte]

/-- Packing the bits of bytes gives the bytes back (R246). -/
theorem bytesFromBits_bitsFromBytes (bytes : List Byte) : bytesFromBits (bitsFromBytes bytes) = bytes := by
  induction bytes with
  | nil => rfl
  | cons b rest ih =>
    have h : bitsFromBytes (b :: rest) = bitsOfByte b ++ bitsFromBytes rest := rfl
    rw [h, bitsOfByte_eq]
    simp only [List.cons_append, List.nil_append, bytesFromBits, ih, byteOfBits_bits]

/-- The number of whole bytes (R246). -/
theorem length_bytesFromBits (bits : List Bool) : (bytesFromBits bits).length = bits.length / 8 := by
  fun_induction bytesFromBits bits with
  | case1 b0 b1 b2 b3 b4 b5 b6 b7 rest ih => simp only [List.length_cons, ih]; omega
  | _ => simp

/-- Bit `t` of packed byte `j` is bit `8j + t` of the sequence (R246). -/
theorem getElem?_bytesFromBits (bits : List Bool) (j t : Nat) (b : Byte)
    (hb : (bytesFromBits bits)[j]? = some b) (ht : t < 8) :
    bits[8 * j + t]? = some (b.getLsbD (7 - t)) := by
  fun_induction bytesFromBits bits generalizing j with
  | case1 b0 b1 b2 b3 b4 b5 b6 b7 rest ih =>
    cases j with
    | zero =>
      simp only [List.getElem?_cons_zero, Option.some.injEq] at hb
      rw [← hb, getLsbD_byteOfBits _ _ _ _ _ _ _ _ t ht]
      interval_cases t <;> rfl
    | succ j =>
      have h := ih j (by simpa using hb)
      rw [show 8 * (j + 1) + t = (8 * j + t) + 8 by omega]
      simpa using h
  | _ => simp at hb

/-- Bit `i` of a byte sequence is bit `7 - i mod 8` of byte `i / 8` (R71, R245). -/
theorem getElem?_bitsFromBytes (bytes : List Byte) (i : Nat) (b : Byte) (h : bytes[i / 8]? = some b) :
    (bitsFromBytes bytes)[i]? = some (b.getLsbD (7 - i % 8)) := by
  have h1 := getElem?_bytesFromBits (bitsFromBytes bytes) (i / 8) (i % 8) b
    (by rw [bytesFromBits_bitsFromBytes]; exact h) (Nat.mod_lt _ (by decide))
  rwa [Nat.div_add_mod] at h1

/-- Two bits a code. -/
@[simp] theorem length_bitsOfCodes (codes : List SymbolCode) :
    (bitsOfCodes codes).length = 2 * codes.length := by
  induction codes with
  | nil => rfl
  | cons c rest ih =>
    have h : bitsOfCodes (c :: rest) = bitsOfCode c ++ bitsOfCodes rest := rfl
    rw [h, List.length_append, ih]
    simp [bitsOfCode]
    omega

/-- Four codes packed in a byte, the first in bits 7:6 (R228). -/
theorem byteOfBits_codes (c0 c1 c2 c3 : SymbolCode) :
    byteOfBits (c0.getLsbD 1) (c0.getLsbD 0) (c1.getLsbD 1) (c1.getLsbD 0) (c2.getLsbD 1)
      (c2.getLsbD 0) (c3.getLsbD 1) (c3.getLsbD 0) = c0 ++ c1 ++ c2 ++ c3 := by
  revert c0 c1 c2 c3
  decide

/-- Packing detected codes: four at a time (R228). -/
theorem bytesFromBits_codes_cons (c0 c1 c2 c3 : SymbolCode) (rest : List SymbolCode) :
    bytesFromBits (bitsOfCodes (c0 :: c1 :: c2 :: c3 :: rest)) =
      (c0 ++ c1 ++ c2 ++ c3) :: bytesFromBits (bitsOfCodes rest) := by
  rw [← byteOfBits_codes]
  rfl

/-- Byte `j` of the packed codes (R228). -/
theorem getElem?_bytes_of_codes (codes : List SymbolCode) (j : Nat) (c0 c1 c2 c3 : SymbolCode)
    (h0 : codes[4 * j]? = some c0) (h1 : codes[4 * j + 1]? = some c1)
    (h2 : codes[4 * j + 2]? = some c2) (h3 : codes[4 * j + 3]? = some c3) :
    (bytesFromBits (bitsOfCodes codes))[j]? = some (c0 ++ c1 ++ c2 ++ c3) := by
  induction j generalizing codes with
  | zero =>
    match codes, h0, h1, h2, h3 with
    | d0 :: d1 :: d2 :: d3 :: rest, h0, h1, h2, h3 =>
      simp only [Nat.mul_zero, Nat.zero_add, List.getElem?_cons_zero, List.getElem?_cons_succ,
        Option.some.injEq] at h0 h1 h2 h3
      subst h0 h1 h2 h3
      rw [bytesFromBits_codes_cons]
      rfl
  | succ j ih =>
    match codes, h0, h1, h2, h3 with
    | d0 :: d1 :: d2 :: d3 :: rest, h0, h1, h2, h3 =>
      rw [bytesFromBits_codes_cons, List.getElem?_cons_succ]
      have e : 4 * (j + 1) = 4 * j + 1 + 1 + 1 + 1 := by omega
      rw [e] at h0 h1 h2 h3
      apply ih rest
      · simpa using h0
      · have : 4 * j + 1 + 1 + 1 + 1 + 1 = (4 * j + 1) + 4 := by omega
        rw [this] at h1; simpa using h1
      · have : 4 * j + 1 + 1 + 1 + 1 + 2 = (4 * j + 2) + 4 := by omega
        rw [this] at h2; simpa using h2
      · have : 4 * j + 1 + 1 + 1 + 1 + 3 = (4 * j + 3) + 4 := by omega
        rw [this] at h3; simpa using h3
    | [], h0, _, _, _ => simp at h0
    | [_], _, h1, _, _ => simp at h1
    | [_, _], _, _, h2, _ => simp at h2
    | [_, _, _], _, _, _, h3 => simp at h3

end Sys2Proof.Machine
end

