-- ==== Sys2Proof/Laws/Numeric.lean ====
section
/-! SUPPORT. The laws of the signal arithmetic: peak, truncation, quantiser, correlation, first crossing,
decision. They hold in every ordered field, whatever the numeric profile. -/

namespace Sys2Proof.Machine

variable {K : Type} [Field K] [LinearOrder K]

/-! ### Peak (R180) -/

theorem le_foldl_max_abs (xs : List K) (m : K) : m ≤ xs.foldl (fun a x => max a |x|) m := by
  induction xs generalizing m with
  | nil => exact le_refl m
  | cons x rest ih => exact le_trans (le_max_left m |x|) (ih _)

theorem abs_le_foldl_max_abs (xs : List K) (m : K) :
    ∀ x ∈ xs, |x| ≤ xs.foldl (fun a x => max a |x|) m := by
  induction xs generalizing m with
  | nil => simp
  | cons y rest ih =>
    intro x hx
    rcases List.mem_cons.1 hx with rfl | hx
    · exact le_trans (le_max_right m |x|) (le_foldl_max_abs rest _)
    · exact ih _ x hx

theorem foldl_max_abs_cases (xs : List K) (m : K) :
    xs.foldl (fun a x => max a |x|) m = m ∨
      ∃ x ∈ xs, xs.foldl (fun a x => max a |x|) m = |x| := by
  induction xs generalizing m with
  | nil => exact Or.inl rfl
  | cons y rest ih =>
    rcases ih (max m |y|) with h | ⟨x, hx, h⟩
    · rcases max_choice m |y| with h' | h'
      · exact Or.inl (by simpa [h'] using h)
      · exact Or.inr ⟨y, by simp, by simpa [h'] using h⟩
    · exact Or.inr ⟨x, by simp [hx], h⟩

/-- Every magnitude is at most the peak. -/
theorem abs_le_peakOf (xs : List K) {x : K} (hx : x ∈ xs) : |x| ≤ peakOf xs :=
  abs_le_foldl_max_abs xs 0 x hx

theorem peakOf_nonneg (xs : List K) : 0 ≤ peakOf xs := le_foldl_max_abs xs 0

variable [IsStrictOrderedRing K]

/-- The peak is 0 exactly where every sample is (R181). -/
theorem peakOf_eq_zero_iff (xs : List K) : peakOf xs = 0 ↔ ∀ x ∈ xs, x = 0 := by
  constructor
  · intro h x hx
    exact abs_eq_zero.1 (le_antisymm (h ▸ abs_le_peakOf xs hx) (abs_nonneg x))
  · intro h
    rcases foldl_max_abs_cases xs 0 with h' | ⟨x, hx, h'⟩
    · exact h'
    · exact h'.trans (by simp [h x hx])

omit [IsStrictOrderedRing K] in
/-- A peak that is not 0 is the magnitude of some sample. -/
theorem exists_abs_eq_peakOf (xs : List K) (h : peakOf xs ≠ 0) : ∃ x ∈ xs, |x| = peakOf xs := by
  rcases foldl_max_abs_cases xs 0 with h' | ⟨x, hx, h'⟩
  · exact absurd h' h
  · exact ⟨x, hx, h'.symm⟩

/-- A scaled sample lies in the 16-bit range (R182). -/
theorem abs_scaled_le (xs : List K) {x : K} (hx : x ∈ xs) (h : peakOf xs ≠ 0) :
    |x * 32767 / peakOf xs| ≤ 32767 := by
  have hpos : 0 < peakOf xs := lt_of_le_of_ne (peakOf_nonneg xs) (Ne.symm h)
  rw [abs_div, abs_mul, abs_of_pos hpos, abs_of_pos (by norm_num : (0 : K) < 32767),
    div_le_iff₀ hpos, mul_comm]
  exact mul_le_mul_of_nonneg_left (abs_le_peakOf xs hx) (by norm_num)

/-! ### Truncation (R7) -/

section Truncate

variable [FloorRing K]

omit [IsStrictOrderedRing K] in
theorem truncate_of_nonneg {v : K} (h : 0 ≤ v) :
    0 ≤ truncate v ∧ (truncate v : K) ≤ v ∧ v < truncate v + 1 := by
  simp only [truncate, h, if_true]
  exact ⟨Int.floor_nonneg.2 h, Int.floor_le v, Int.lt_floor_add_one v⟩

theorem truncate_of_nonpos {v : K} (h : v ≤ 0) :
    truncate v ≤ 0 ∧ v ≤ truncate v ∧ (truncate v : K) - 1 < v := by
  rcases eq_or_lt_of_le h with rfl | h'
  · simp [truncate]
  · simp only [truncate, not_le.2 h', if_false]
    exact ⟨Int.ceil_le.2 (by simpa using h), Int.le_ceil v, by linarith [Int.ceil_lt_add_one v]⟩

theorem truncate_intCast (n : ℤ) : truncate (n : K) = n := by
  unfold truncate
  split <;> simp

/-- Truncation keeps the 16-bit range. -/
theorem truncate_range {v : K} (h : |v| ≤ 32767) : -32767 ≤ truncate v ∧ truncate v ≤ 32767 := by
  obtain ⟨h1, h2⟩ := abs_le.1 h
  rcases le_total 0 v with h0 | h0
  · obtain ⟨a, b, _⟩ := truncate_of_nonneg h0
    refine ⟨by omega, ?_⟩
    have : (truncate v : K) ≤ ((32767 : ℤ) : K) := by push_cast; exact le_trans b h2
    exact_mod_cast this
  · obtain ⟨a, b, _⟩ := truncate_of_nonpos h0
    refine ⟨?_, by omega⟩
    have : ((-32767 : ℤ) : K) ≤ (truncate v : K) := by push_cast; exact le_trans h1 b
    exact_mod_cast this

/-- Either rounding of a lawful profile keeps the 16-bit range. -/
theorem quantise_range (T : Numeric K) (hT : T.Lawful) (q : QRound) {v : K} (h : |v| ≤ 32767) :
    -32767 ≤ quantise T q v ∧ quantise T q v ≤ 32767 := by
  cases q with
  | trunc => exact truncate_range h
  | other => exact hT.round_range v (abs_le.1 h).1 (abs_le.1 h).2

end Truncate

omit [IsStrictOrderedRing K] in
/-- A signed value of the 16-bit range survives as a pattern. -/
theorem toInt_ofInt_pcm {q : ℤ} (h1 : -32768 ≤ q) (h2 : q ≤ 32767) :
    (BitVec.ofInt 16 q).toInt = q := by
  rw [BitVec.toInt_ofInt]
  exact Int.bmod_eq_of_le (by norm_num; omega) (by norm_num; omega)

/-! ### Correlation and first crossing (R202 to R205) -/

omit [LinearOrder K] [IsStrictOrderedRing K] in
/-- An inner product over two lists is the indexed sum over the shorter length. -/
theorem dot_eq_sum (a b : List K) :
    dot a b = ∑ j ∈ Finset.range (min a.length b.length), a.getD j 0 * b.getD j 0 := by
  induction a generalizing b with
  | nil => simp [dot]
  | cons x xs ih =>
    cases b with
    | nil => simp [dot]
    | cons y ys =>
      have h := ih ys
      simp only [dot] at h ⊢
      simp only [List.zipWith_cons_cons, List.sum_cons, h, List.length_cons, Nat.succ_min_succ,
        Finset.sum_range_succ', List.getD_cons_succ, List.getD_cons_zero]
      ring

omit [LinearOrder K] [IsStrictOrderedRing K] in
theorem length_correlation (x m : List K) : (correlation x m).length = x.length + 1 - m.length := by
  simp [correlation]

omit [LinearOrder K] [IsStrictOrderedRing K] in
/-- Value `k` of the correlation. -/
theorem getElem?_correlation (x m : List K) {k : Nat} (h : k + m.length ≤ x.length) :
    (correlation x m)[k]? = some (dot (x.drop k) m) := by
  have : k < x.length + 1 - m.length := by omega
  simp [correlation, this]

omit [Field K] [IsStrictOrderedRing K] in
theorem le_largest (c : K) (rest : List K) : ∀ v ∈ c :: rest, v ≤ largest c rest := by
  induction rest generalizing c with
  | nil => simp [largest]
  | cons d rest ih =>
    intro v hv
    have hmax := ih (max c d)
    simp only [largest, List.foldl_cons] at hmax ⊢
    rcases List.mem_cons.1 hv with rfl | hv
    · exact le_trans (le_max_left v d) (hmax _ (by simp))
    · rcases List.mem_cons.1 hv with rfl | hv
      · exact le_trans (le_max_right c v) (hmax _ (by simp))
      · exact hmax v (by simp [hv])

omit [Field K] [IsStrictOrderedRing K] in
theorem largest_mem (c : K) (rest : List K) : largest c rest ∈ c :: rest := by
  induction rest generalizing c with
  | nil => simp [largest]
  | cons d rest ih =>
    have h := ih (max c d)
    simp only [largest, List.foldl_cons] at h ⊢
    rcases List.mem_cons.1 h with h | h
    · rw [h]
      rcases max_choice c d with h' | h' <;> simp [h']
    · simp [h]

omit [IsStrictOrderedRing K] in
/-- The search over a list that is not empty, with its largest value named. -/
theorem firstCrossing_eq (corr : List K) {M : K} (hM : M ∈ corr) (hle : ∀ c ∈ corr, c ≤ M) :
    firstCrossing corr = corr.findIdx? fun v => decide (7 * M < 10 * v) := by
  cases corr with
  | nil => simp at hM
  | cons c rest =>
    have : largest c rest = M :=
      le_antisymm (hle _ (largest_mem c rest)) (le_largest c rest M hM)
    simp only [firstCrossing, this]

omit [Field K] [IsStrictOrderedRing K] in
/-- A list that is not empty has a largest value. -/
theorem exists_largest (corr : List K) (h : corr ≠ []) : ∃ M ∈ corr, ∀ c ∈ corr, c ≤ M := by
  cases corr with
  | nil => exact absurd rfl h
  | cons c rest => exact ⟨largest c rest, largest_mem c rest, le_largest c rest⟩

/-! ### Decision (R226) -/

omit [Field K] [IsStrictOrderedRing K] in
theorem bestCode_cases (score : SymbolCode → K) :
    (∀ d, score d ≤ score (bestCode score)) ∧
      ∀ d : SymbolCode, d.toNat < (bestCode score).toNat → score d < score (bestCode score) := by
  have all : ∀ p : SymbolCode → Prop, (∀ d, p d) ↔ p 0#2 ∧ p 1#2 ∧ p 2#2 ∧ p 3#2 := by
    intro p
    refine ⟨fun h => ⟨h _, h _, h _, h _⟩, fun h d => ?_⟩
    have hd : d = 0#2 ∨ d = 1#2 ∨ d = 2#2 ∨ d = 3#2 := by revert d; decide
    rcases hd with rfl | rfl | rfl | rfl
    · exact h.1
    · exact h.2.1
    · exact h.2.2.1
    · exact h.2.2.2
  rw [all (fun d => score d ≤ score (bestCode score)),
    all (fun d => d.toNat < (bestCode score).toNat → score d < score (bestCode score))]
  unfold bestCode
  split_ifs with h0 h1 h2
  · exact ⟨⟨le_refl _, h0.1, h0.2.1, h0.2.2⟩, by simp⟩
  · have h01 : score 0#2 < score 1#2 := by
      by_contra h
      exact h0 ⟨not_lt.1 h, le_trans h1.1 (not_lt.1 h), le_trans h1.2 (not_lt.1 h)⟩
    exact ⟨⟨le_of_lt h01, le_refl _, h1.1, h1.2⟩, by simpa using h01⟩
  · have h12 : score 1#2 < score 2#2 := by
      by_contra h
      exact h1 ⟨not_lt.1 h, le_trans h2 (not_lt.1 h)⟩
    have h02 : score 0#2 < score 2#2 := by
      by_contra h
      exact h0 ⟨le_trans (le_of_lt h12) (not_lt.1 h), not_lt.1 h, le_trans h2 (not_lt.1 h)⟩
    exact ⟨⟨le_of_lt h02, le_of_lt h12, le_refl _, h2⟩, by simpa using ⟨h02, h12⟩⟩
  · have h23 : score 2#2 < score 3#2 := not_le.1 h2
    have h13 : score 1#2 < score 3#2 := by
      by_contra h
      exact h1 ⟨le_trans (le_of_lt h23) (not_lt.1 h), not_lt.1 h⟩
    have h03 : score 0#2 < score 3#2 := by
      by_contra h
      exact h0 ⟨le_trans (le_of_lt h13) (not_lt.1 h), le_trans (le_of_lt h23) (not_lt.1 h), not_lt.1 h⟩
    exact ⟨⟨le_of_lt h03, le_of_lt h13, le_of_lt h23, le_refl _⟩, by simpa using ⟨h03, h13, h23⟩⟩

end Sys2Proof.Machine
end

