-- ==== Sys2Proof/Laws/Engines.lean ====
section
/-! SUPPORT. What the two engines' steps can do, said once: the rendered frame, and for each operation the
equation with its faults in order and its success. -/

namespace Sys2Proof.Machine

/-! ### Segments -/

/-- A data descriptor emits the tone of its symbol code (R106, R107, R135). -/
theorem runSegment_symbol (c : SymbolCode) (s : State) :
    runSegment (decodeSegment (0b0#1 ++ c)) s = emit (symbolSamples s c) s := by
  have hc : c = 0b00#2 ∨ c = 0b01#2 ∨ c = 0b10#2 ∨ c = 0b11#2 := by revert c; decide
  rcases hc with rfl | rfl | rfl | rfl <;> rfl

/-- The marker's two descriptors emit its halves (R107). -/
theorem runSegment_mlo (s : State) :
    runSegment (decodeSegment 0b100#3) s = emit (markerLowSamples s) s := rfl

theorem runSegment_mhi (s : State) :
    runSegment (decodeSegment 0b101#3) s = emit (markerHighSamples s) s := rfl

/-- A segment that is not reserved changes the frame buffer and the sequencer's position only. -/
theorem runSegment_frame (d : BitVec 3) (s : State) (h : d.toNat < 6) :
    runSegment (decodeSegment d) s =
      { s with
        buf := (runSegment (decodeSegment d) s).buf, seqSeg := s.seqSeg + 1, seqN := 0 } := by
  have hd : d = 0b000#3 ∨ d = 0b001#3 ∨ d = 0b010#3 ∨ d = 0b011#3 ∨ d = 0b100#3 ∨ d = 0b101#3 := by
    revert d; decide
  rcases hd with rfl | rfl | rfl | rfl | rfl | rfl <;> rfl

/-- A state with a given frame buffer and the sequencer at the start of a given segment. -/
def withBuffer (l : List ToneSample) (seg : Nat) (s : State) : State :=
  { s with buf := l, seqSeg := seg, seqN := 0 }

theorem emit_withBuffer (l m : List ToneSample) (seg : Nat) (s : State) :
    emit m (withBuffer l seg s) = withBuffer (l ++ m) (seg + 1) s := rfl

/-- One emitting descriptor of a list. -/
theorem runSegments_cons_emit {d : BitVec 3} {s : State} {l m : List ToneSample} {seg : Nat}
    (rest : List (BitVec 3)) (hb : s.busy .mod = true)
    (h : runSegment (decodeSegment d) (withBuffer l seg s) = emit m (withBuffer l seg s)) :
    runSegments (d :: rest) (withBuffer l seg s) =
      runSegments rest (withBuffer (l ++ m) (seg + 1) s) := by
  have hb' : (withBuffer (l ++ m) (seg + 1) s).busy .mod = true := hb
  simp only [runSegments, h, emit_withBuffer, hb', if_true]

/-- The data descriptors emit their symbols' tones in order (R176, R178). -/
theorem runSegments_symbols (codes : List SymbolCode) (rest : List (BitVec 3)) (l : List ToneSample)
    (seg : Nat) (s : State) (hb : s.busy .mod = true) :
    runSegments (codes.map (fun c => 0b0#1 ++ c) ++ rest) (withBuffer l seg s) =
      runSegments rest
        (withBuffer (l ++ codes.flatMap (symbolSamples s)) (seg + codes.length) s) := by
  induction codes generalizing l seg with
  | nil => simp
  | cons c codes ih =>
    rw [List.map_cons, List.cons_append, runSegments_cons_emit _ hb (runSegment_symbol c _), ih]
    have h1 : symbolSamples (withBuffer l seg s) c = symbolSamples s c := rfl
    rw [h1, List.flatMap_cons, List.append_assoc, List.length_cons,
      show seg + 1 + codes.length = seg + (codes.length + 1) by omega]

/-- The sequencer renders the frame of R178 and nothing else. -/
theorem renderStage_eq (s : State) (hb : s.busy .mod = true) :
    renderStage s = withBuffer (frameSamples s) (symbolCount s + 4) s := by
  have hlist : segmentList s = 0b100#3 :: 0b101#3 ::
      (((List.range (symbolCount s)).map (symbolAt s.mbyte)).map (fun c => 0b0#1 ++ c) ++
        [0b100#3, 0b101#3]) := by
    simp [segmentList, Function.comp_def]
  have hframe : [] ++ markerLowSamples s ++ markerHighSamples s ++
      ((List.range (symbolCount s)).map (symbolAt s.mbyte)).flatMap (symbolSamples s) ++
      markerLowSamples s ++ markerHighSamples s = frameSamples s := by
    simp [frameSamples, markerSamples, List.flatMap_map]
  unfold renderStage
  rw [hlist, show idleSequencer s = withBuffer [] 0 s from rfl,
    runSegments_cons_emit _ hb (runSegment_mlo _), runSegments_cons_emit _ hb (runSegment_mhi _),
    runSegments_symbols _ _ _ _ _ hb, runSegments_cons_emit _ hb (runSegment_mlo _),
    runSegments_cons_emit _ hb (runSegment_mhi _), runSegments]
  rw [← hframe, List.length_map, List.length_range]
  congr 1
  omega

/-- The frame's length (R178). -/
theorem length_frameSamples (s : State) : (frameSamples s).length = frameLen s := by
  simp [frameSamples, frameLen, markerSamples, markerLowSamples, markerHighSamples, symbolSamples,
    toneSamples, markerLen, List.length_flatMap]
  ring

/-! ### The modulation -/

section Values

variable {K : Type} [Field K]

/-- The values of the frame before normalisation (R178). -/
def frameValues (T : Numeric K) (s : State) : List K := (frameSamples s).map (ToneSample.eval T)

variable [LinearOrder K] [FloorRing K]

/-- A modulation as one equation: the faults in the order of R308, else success. -/
theorem modCompleteIn_eq (T : Numeric K) (s : State) (hb : s.busy .mod = true) :
    modCompleteIn T s =
      if s.modNbits.toNat % 2 = 1 then faultMod .invalidPayloadLength s
      else if cfgOk s = false then faultMod .configInvalid s
      else if s.config.capMbyte < payloadBytes s ∨ s.config.capMpcm < frameLen s then
        faultMod .capacity s
      else if peakOf (frameValues T s) = 0 then faultMod .zeroPeak s
      else finishMod (quantisedFrame T s.config.qRound (frameValues T s)) (frameLen s) s := by
  have hb' : (withBuffer (frameSamples s) (symbolCount s + 4) s).busy .mod = true := hb
  unfold modCompleteIn
  simp only [renderStage_eq s hb, hb', if_true]
  rfl

/-- A modulation ends by one of its faults or by success. -/
theorem modCompleteIn_cases (T : Numeric K) (s : State) (hb : s.busy .mod = true) :
    (∃ k ∈ [ErrKind.invalidPayloadLength, .configInvalid, .capacity, .zeroPeak],
      modCompleteIn T s = faultMod k s) ∨
    (frameLen s ≤ s.config.capMpcm ∧ modCompleteIn T s =
      finishMod (quantisedFrame T s.config.qRound (frameValues T s)) (frameLen s) s) := by
  rw [modCompleteIn_eq T s hb]
  split_ifs with h1 h2 h3 h4
  · exact Or.inl ⟨_, by simp, rfl⟩
  · exact Or.inl ⟨_, by simp, rfl⟩
  · exact Or.inl ⟨_, by simp, rfl⟩
  · exact Or.inl ⟨_, by simp, rfl⟩
  · exact Or.inr ⟨by omega, rfl⟩

omit [LinearOrder K] [FloorRing K] in
@[simp] theorem length_frameValues (T : Numeric K) (s : State) : (frameValues T s).length = frameLen s := by
  simp [frameValues, length_frameSamples]

@[simp] theorem length_quantisedFrame (T : Numeric K) (q : QRound) (buf : List K) :
    (quantisedFrame T q buf).length = buf.length := by
  simp [quantisedFrame]

end Values

/-! ### The DEM engine -/

/-- The length of the region between the markers, without signed numbers (R222). -/
theorem spanOf_eq (s : State) (offset : Nat) :
    spanOf s offset = s.demNsamp.toNat - 2 * markerLen s - 2 * offset := by
  simp only [spanOf]
  omega

theorem byteCount_eq (s : State) (offset : Nat) : byteCount s offset = windowCount s offset / 4 := by
  simp only [byteCount]
  omega

@[simp] theorem length_captured (s : State) : (captured s).length = s.demNsamp.toNat := by simp [captured]

/-- Status flags raised along the way of an operation: `s` with some bits of STATUS added. -/
def withFlags (w : Word) (s : State) : State := { s with status := s.status ||| w }

theorem flagLeftover_eq (offset : Nat) (s : State) :
    flagLeftover offset s =
      withFlags (if spanOf s offset % sps s = 0 then 0#32 else StatusBit.incompleteWindow.mask) s := by
  unfold flagLeftover withFlags raise
  split_ifs <;> simp

section Values

variable {K : Type} [Field K] [LinearOrder K]

omit [LinearOrder K] in
@[simp] theorem length_capture (s : State) : (capture s : List K).length = s.demNsamp.toNat := by
  simp [capture]

@[simp] theorem length_detectedCodes (T : Numeric K) (offset : Nat) (s : State) :
    (detectedCodes T offset s).length = windowCount s offset := by
  simp [detectedCodes]

omit [LinearOrder K] in
/-- The template's length (R201). -/
@[simp] theorem length_marker (T : Numeric K) (s : State) : (marker T s).length = markerLen s := by
  simp [marker, markerSamples, markerLowSamples, markerHighSamples, toneSamples, markerLen]
  omega

omit [LinearOrder K] in
@[simp] theorem length_symtone (T : Numeric K) (s : State) (c : SymbolCode) :
    (symtone T s c).length = sps s := by
  simp [symtone, symbolSamples, toneSamples]

/-- The number of bytes that a demodulation packs (R228). -/
theorem length_detectedBytes (T : Numeric K) (offset : Nat) (s : State) :
    (bytesFromBits (bitsOfCodes (detectedCodes T offset s))).length = byteCount s offset := by
  simp [length_bytesFromBits, byteCount]

/-- The bytes of a demodulation from `offset` (R228). -/
def detectedBytes (T : Numeric K) (offset : Nat) (s : State) : List Byte :=
  bytesFromBits (bitsOfCodes (detectedCodes T offset s))

/-- A found offset leaves room for the template (R200). -/
theorem locate_le {x m : List K} {k : Nat} (h : locate x m = some k) : k + m.length ≤ x.length := by
  unfold locate firstCrossing at h
  cases hc : correlation x m with
  | nil => simp [hc] at h
  | cons c rest =>
    rw [hc] at h
    have hk := (List.findIdx?_eq_some_iff_findIdx_eq.1 h).1
    have hl : (c :: rest).length = x.length + 1 - m.length := hc ▸ length_correlation x m
    omega

/-- From an offset on (R222 to R230): the output capacity's fault, else success, with INCOMPLETE_WINDOW
raised where samples are left over. -/
theorem detectStage_eq (T : Numeric K) (offset : Nat) (s : State) :
    detectStage T offset s =
      if s.config.capDbyte < byteCount s offset then faultDem .capacity (flagLeftover offset s)
      else finishDemod (detectedBytes T offset s) (windowCount s offset) (byteCount s offset) offset
        (flagLeftover offset s) := rfl

/-- A demodulation as one equation on the state it started from (R215). -/
theorem demodulateIn_eq (T : Numeric K) (s : State) :
    demodulateIn T s =
      if cfgOk s = false then faultDem .configInvalid (invalidatePixels s)
      else if s.config.capDpcm < s.demNsamp.toNat then faultDem .capacity (invalidatePixels s)
      else if capturedPeak s = 0 then faultDem .zeroPeak (invalidatePixels s)
      else alignStage T (invalidatePixels s) := rfl

/-- What a DEM operation's end leaves alone: it writes its own result registers, DBYTE and STATUS. -/
theorem faultDem_frame (k : ErrKind) (s : State) :
    faultDem k s = { s with
      demErr := k.code, pixCount := 0#32
      demNbits := if s.demOp = .demod then 0#32 else s.demNbits
      demNsym := if s.demOp = .demod then 0#32 else s.demNsym
      demOffset := if s.demOp = .demod then 0#32 else s.demOffset
      status := s.status &&& ~~~StatusBit.demBusy.mask ||| StatusBit.demFault.mask } := by
  unfold faultDem
  cases h : s.demOp <;> simp [raise, lower]

/-- A demodulation ends by one of its faults or by success, on a state in which only `pixCount` and
informational flags differ from the start. -/
theorem demodulateIn_cases (T : Numeric K) (s : State) :
    ∃ w : Word, w &&& ~~~0x1C0#32 = 0#32 ∧
      ((∃ k ∈ [ErrKind.configInvalid, .capacity, .zeroPeak, .markerNotFound],
          demodulateIn T s = faultDem k (withFlags w (invalidatePixels s))) ∨
        (∃ offset, byteCount s offset ≤ s.config.capDbyte ∧ s.demNsamp.toNat ≤ s.config.capDpcm ∧
          demodulateIn T s = finishDemod (detectedBytes T offset s) (windowCount s offset)
            (byteCount s offset) offset (withFlags w (invalidatePixels s)))) := by
  have hdetect : ∀ (offset : Nat) (w : Word) (_ : w &&& ~~~0x1C0#32 = 0#32)
      (_ : ¬ s.config.capDpcm < s.demNsamp.toNat),
      ∃ w' : Word, w' &&& ~~~0x1C0#32 = 0#32 ∧
        ((∃ k ∈ [ErrKind.configInvalid, .capacity, .zeroPeak, .markerNotFound],
          detectStage T offset (withFlags w (invalidatePixels s)) =
            faultDem k (withFlags w' (invalidatePixels s))) ∨
        (∃ offset', byteCount s offset' ≤ s.config.capDbyte ∧ s.demNsamp.toNat ≤ s.config.capDpcm ∧
          detectStage T offset (withFlags w (invalidatePixels s)) =
            finishDemod (detectedBytes T offset' s) (windowCount s offset') (byteCount s offset') offset'
              (withFlags w' (invalidatePixels s)))) := by
    intro offset w hw hL
    have hflag : flagLeftover offset (withFlags w (invalidatePixels s)) =
        withFlags (w ||| (if spanOf s offset % sps s = 0 then 0#32 else 0x100#32))
          (invalidatePixels s) := by
      rw [flagLeftover_eq]
      simp only [withFlags, BitVec.or_assoc]
      rfl
    refine ⟨w ||| (if spanOf s offset % sps s = 0 then 0#32 else 0x100#32), ?_, ?_⟩
    · rw [BitVec.and_or_distrib_right, hw]
      split_ifs <;> decide
    · rw [detectStage_eq, hflag]
      split_ifs with hcap
      · exact Or.inl ⟨_, by simp, rfl⟩
      · exact Or.inl ⟨_, by simp, rfl⟩
      · exact Or.inr ⟨offset, not_lt.1 hcap, not_lt.1 hL, rfl⟩
      · exact Or.inr ⟨offset, not_lt.1 hcap, not_lt.1 hL, rfl⟩
  have h0 : withFlags 0#32 (invalidatePixels s) = invalidatePixels s := by
    simp [withFlags]
  rw [demodulateIn_eq]
  split_ifs with h1 h2 h3
  · exact ⟨0#32, by decide, Or.inl ⟨.configInvalid, by simp, by rw [h0]⟩⟩
  · exact ⟨0#32, by decide, Or.inl ⟨.capacity, by simp, by rw [h0]⟩⟩
  · exact ⟨0#32, by decide, Or.inl ⟨.zeroPeak, by simp, by rw [h0]⟩⟩
  · unfold alignStage
    cases locate (capture (invalidatePixels s)) (marker T (invalidatePixels s)) with
    | some offset =>
      have h := hdetect offset 0#32 (by decide) h2
      rw [h0] at h
      exact h
    | none =>
      dsimp only
      split_ifs with hf
      · have hw : raise .degraded (raise .markerNotFound (invalidatePixels s)) =
            withFlags 0xC0#32 (invalidatePixels s) := by
          simp only [raise, withFlags, BitVec.or_assoc]
          rfl
        rw [hw]
        exact hdetect 0 0xC0#32 (by decide) h2
      · exact ⟨0x40#32, by decide, Or.inl ⟨.markerNotFound, by simp, rfl⟩⟩

end Values

/-- A pixel formatting as one equation (R252): the capacity fault, else success, with LEN_MISMATCH raised
where the recovered bytes are not as many as the pixels. -/
theorem formatPixels_eq (s : State) :
    formatPixels s =
      if s.config.capDbyte < pixelCount s then faultDem .capacity s
      else { s with
        dbyte := s.dbyte.store (recoveredBytes s)
          (List.replicate (pixelCount s - recoveredBytes s) 0#8)
        pixCount := BitVec.ofNat 32 (pixelCount s), demErr := 0#32
        status := (s.status ||| (if recoveredBytes s = pixelCount s then 0#32
          else StatusBit.lenMismatch.mask)) &&& ~~~StatusBit.demBusy.mask ||| StatusBit.demDone.mask } := by
  unfold formatPixels
  dsimp only
  split_ifs <;> simp [raise, lower]

end Sys2Proof.Machine
end

