-- ==== Sys2Proof/Laws/Dependence.lean ====
section
/-! SUPPORT. What the result of an engine's step depends on: two states that agree in what the engine reads
get the same result, each on its own rest (R12, R146, R187). -/

namespace Sys2Proof.Machine

/-- Two states agree in everything a modulation reads, and in the memory it writes into. -/
structure SameModInputs (s t : State) : Prop where
  modNbits : t.modNbits = s.modNbits
  config : t.config = s.config
  sampleRate : t.sampleRate = s.sampleRate
  baudRate : t.baudRate = s.baudRate
  carrierFreq : t.carrierFreq = s.carrierFreq
  markerFreq : t.markerFreq = s.markerFreq
  markerDurUs : t.markerDurUs = s.markerDurUs
  toneFreq0 : t.toneFreq0 = s.toneFreq0
  toneFreq1 : t.toneFreq1 = s.toneFreq1
  toneFreq2 : t.toneFreq2 = s.toneFreq2
  toneFreq3 : t.toneFreq3 = s.toneFreq3
  mbyte : t.mbyte = s.mbyte
  mpcm : t.mpcm = s.mpcm

/-- What a modulation leaves: its results, and the flag it raises. -/
structure ModResult where
  mpcm : Memory 16
  modNsamp : Word
  modErr : Word
  flag : Word

/-- A state with a modulation's result written and the engine idle. -/
def ModResult.apply (r : ModResult) (u : State) : State :=
  { u with
    mpcm := r.mpcm, modNsamp := r.modNsamp, modErr := r.modErr, seqSeg := 0, seqN := 0, buf := []
    status := u.status &&& ~~~0x1#32 ||| r.flag }

/-- A modulation from `s` ends in success or in a fault that has written no memory (R13, R302). -/
def ModResult.endsWell (r : ModResult) (s : State) : Prop :=
  (r.flag = 0x4#32 ∧ r.modErr = 0#32) ∨
    (r.flag = 0x10#32 ∧ r.modErr ≠ 0#32 ∧ r.modNsamp = 0#32 ∧ r.mpcm = s.mpcm)

/-- A modulation's result depends on what it reads alone. -/
theorem modCompleteIn_depends {K : Type} [Field K] [LinearOrder K] [FloorRing K] (T : Numeric K)
    {s t : State} (h : SameModInputs s t) (hb : s.busy .mod = true) (hb' : t.busy .mod = true) :
    ∃ r : ModResult, r.endsWell s ∧ modCompleteIn T s = r.apply s ∧ modCompleteIn T t = r.apply t := by
  obtain ⟨h1, h2, h3, h4, h5, h6, h7, h8, h9, h10, h11, h12, h13⟩ := h
  have c : cfgOk t = cfgOk s := by unfold cfgOk sps markerHalf; rw [h3, h4, h7, h8, h9, h10, h11]
  have l : frameLen t = frameLen s := by
    simp only [frameLen, markerLen, symbolCount, sps, markerHalf, h1, h3, h4, h7]
  have p : payloadBytes t = payloadBytes s := by simp only [payloadBytes, h1]
  have f : frameValues T t = frameValues T s := by
    simp only [frameValues, frameSamples, markerSamples, markerLowSamples, markerHighSamples,
      symbolCount, symbolSamples, toneFreq, sps, markerHalf, h1, h3, h4, h5, h6, h7, h8, h9, h10, h11, h12]
  have a := modCompleteIn_eq T s hb
  have b := modCompleteIn_eq T t hb'
  rw [h1, c, h2, p, l, f] at b
  have fault : ∀ k, modCompleteIn T s = faultMod k s → modCompleteIn T t = faultMod k t →
      ∃ r : ModResult, r.endsWell s ∧ modCompleteIn T s = r.apply s ∧ modCompleteIn T t = r.apply t := by
    intro k e e'
    refine ⟨⟨s.mpcm, 0#32, k.code, 0x10#32⟩, Or.inr ⟨rfl, by cases k <;> simp [ErrKind.code], rfl, rfl⟩, e, ?_⟩
    rw [e', ← h13]
    rfl
  by_cases g1 : s.modNbits.toNat % 2 = 1
  · rw [if_pos g1] at a b
    exact fault _ a b
  by_cases g2 : cfgOk s = false
  · rw [if_neg g1, if_pos g2] at a b
    exact fault _ a b
  by_cases g3 : s.config.capMbyte < payloadBytes s ∨ s.config.capMpcm < frameLen s
  · rw [if_neg g1, if_neg g2, if_pos g3] at a b
    exact fault _ a b
  by_cases g4 : peakOf (frameValues T s) = 0
  · rw [if_neg g1, if_neg g2, if_neg g3, if_pos g4] at a b
    exact fault _ a b
  · rw [if_neg g1, if_neg g2, if_neg g3, if_neg g4] at a b
    refine ⟨⟨s.mpcm.store 0 (quantisedFrame T s.config.qRound (frameValues T s)),
      BitVec.ofNat 32 (frameLen s), 0#32, 0x4#32⟩, Or.inl ⟨rfl, rfl⟩, a, ?_⟩
    rw [b, ← h13]
    rfl

/-- Two states agree in everything an operation of the DEM engine reads, and in what it may keep. -/
structure SameDemInputs (s t : State) : Prop where
  demNsamp : t.demNsamp = s.demNsamp
  config : t.config = s.config
  sampleRate : t.sampleRate = s.sampleRate
  baudRate : t.baudRate = s.baudRate
  carrierFreq : t.carrierFreq = s.carrierFreq
  markerFreq : t.markerFreq = s.markerFreq
  markerDurUs : t.markerDurUs = s.markerDurUs
  toneFreq0 : t.toneFreq0 = s.toneFreq0
  toneFreq1 : t.toneFreq1 = s.toneFreq1
  toneFreq2 : t.toneFreq2 = s.toneFreq2
  toneFreq3 : t.toneFreq3 = s.toneFreq3
  dpcm : t.dpcm = s.dpcm
  dbyte : t.dbyte = s.dbyte
  ctrl : t.ctrl = s.ctrl
  demOp : t.demOp = s.demOp
  frameH : t.frameH = s.frameH
  frameW : t.frameW = s.frameW
  demNbits : t.demNbits = s.demNbits
  demNsym : t.demNsym = s.demNsym
  demOffset : t.demOffset = s.demOffset

/-- What an operation of the DEM engine leaves: its results, and the informational flags it raised. -/
structure DemResult where
  dbyte : Memory 8
  demNbits : Word
  demNsym : Word
  demOffset : Word
  pixCount : Word
  demErr : Word
  flags : Word

/-- A state with a DEM operation's result written and the engine idle. -/
def DemResult.apply (o : DemResult) (u : State) : State :=
  { u with
    dbyte := o.dbyte, demNbits := o.demNbits, demNsym := o.demNsym, demOffset := o.demOffset
    pixCount := o.pixCount, demErr := o.demErr
    status := (u.status ||| o.flags) &&& ~~~0x2#32 |||
      (if o.demErr = 0#32 then 0x8#32 else 0x20#32) }

/-- What a DEM operation may raise on its way: MARKER_NOT_FOUND, DEGRADED, INCOMPLETE_WINDOW and
LEN_MISMATCH; and a fault has written no memory and no pixel (R301, R302). -/
def DemResult.endsWell (o : DemResult) (s : State) : Prop :=
  o.flags &&& ~~~0x3C0#32 = 0#32 ∧ (o.demErr ≠ 0#32 → o.dbyte = s.dbyte ∧ o.pixCount = 0#32)

/-- A DEM operation's result depends on what it reads alone. -/
theorem demCompleteIn_depends {K : Type} [Field K] [LinearOrder K] (T : Numeric K) {s t : State}
    (h : SameDemInputs s t) :
    ∃ o : DemResult, o.endsWell s ∧ demCompleteIn T s = o.apply s ∧ demCompleteIn T t = o.apply t := by
  obtain ⟨h1, h2, h3, h4, h5, h6, h7, h8, h9, h10, h11, h12, h13, h14, h15, h16, h17, h18, h19, h20⟩ := h
  have c : cfgOk t = cfgOk s := by unfold cfgOk sps markerHalf; rw [h3, h4, h7, h8, h9, h10, h11]
  have cp : capturedPeak t = capturedPeak s := by simp only [capturedPeak, captured, h1, h12]
  have cc : (capture t : List K) = capture s := by simp only [capture, cp, captured, h1, h12]
  have ms : markerLen t = markerLen s := by simp only [markerLen, markerHalf, h3, h7]
  have sp : sps t = sps s := by simp only [sps, h3, h4]
  have m : marker T t = marker T s := by
    simp only [marker, markerSamples, markerLowSamples, markerHighSamples, markerHalf, h3, h6, h7]
  have so : ∀ o, spanOf t o = spanOf s o := by intro o; simp only [spanOf, ms, h1]
  have wc : ∀ o, windowCount t o = windowCount s o := by intro o; simp only [windowCount, so, sp]
  have bc : ∀ o, byteCount t o = byteCount s o := by intro o; simp only [byteCount, wc]
  have st : ∀ c, symtone T t c = symtone T s c := by
    intro c; simp only [symtone, symbolSamples, toneFreq, sp, h3, h5, h8, h9, h10, h11]
  have dc : ∀ o, detectedCodes T o t = detectedCodes T o s := by
    intro o; simp only [detectedCodes, wc, cc, ms, sp, st]
  have db : ∀ o, detectedBytes T o t = detectedBytes T o s := by intro o; simp only [detectedBytes, dc]
  unfold demCompleteIn
  cases hop : s.demOp with
  | pix =>
    have pc : pixelCount t = pixelCount s := by simp only [pixelCount, h16, h17]
    have rb : recoveredBytes t = recoveredBytes s := by simp only [recoveredBytes, h18]
    rw [h15, hop]
    dsimp only
    rw [formatPixels_eq s, formatPixels_eq t, pc, h2, rb]
    by_cases g : s.config.capDbyte < pixelCount s
    · rw [if_pos g, if_pos g, faultDem_frame, faultDem_frame]
      refine ⟨⟨s.dbyte, s.demNbits, s.demNsym, s.demOffset, 0#32, 4#32, 0#32⟩,
        ⟨by dsimp only; decide, fun _ => ⟨rfl, rfl⟩⟩, ?_, ?_⟩
      · simp [hop, DemResult.apply, ErrKind.code, StatusBit.mask, StatusBit.index]
      · simp [h15, hop, DemResult.apply, ErrKind.code, StatusBit.mask, StatusBit.index, h13, h18, h19, h20]
    · rw [if_neg g, if_neg g]
      refine ⟨⟨s.dbyte.store (recoveredBytes s)
        (List.replicate (pixelCount s - recoveredBytes s) 0#8), s.demNbits, s.demNsym, s.demOffset,
        BitVec.ofNat 32 (pixelCount s), 0#32,
        if recoveredBytes s = pixelCount s then 0#32 else 0x200#32⟩,
        ⟨by dsimp only; split_ifs <;> decide, fun h => absurd rfl h⟩, ?_, ?_⟩
      · simp [DemResult.apply, StatusBit.mask, StatusBit.index]
      · rw [h13, ← h18, ← h19, ← h20]
        simp [DemResult.apply, StatusBit.mask, StatusBit.index, h2]
  | demod =>
    rw [h15, hop]
    dsimp only
    have fk : ∀ (k : ErrKind) (w : Word), w &&& ~~~0x3C0#32 = 0#32 →
        (∀ u : State, (u = s ∨ u = t) → demodulateIn T u = faultDem k (withFlags w (invalidatePixels u))) →
        ∃ o : DemResult, o.endsWell s ∧ demodulateIn T s = o.apply s ∧ demodulateIn T t = o.apply t := by
      intro k w hw h
      have hk : k.code ≠ 0#32 := by cases k <;> simp [ErrKind.code]
      refine ⟨⟨s.dbyte, 0#32, 0#32, 0#32, 0#32, k.code, w⟩, ⟨hw, fun _ => ⟨rfl, rfl⟩⟩, ?_, ?_⟩
      · rw [h s (Or.inl rfl), faultDem_frame]
        simp [withFlags, invalidatePixels, hop, DemResult.apply, hk, StatusBit.mask, StatusBit.index]
      · rw [h t (Or.inr rfl), faultDem_frame, ← h13]
        simp [withFlags, invalidatePixels, h15, hop, DemResult.apply, hk, StatusBit.mask, StatusBit.index]
    have fd : ∀ (offset : Nat) (w : Word), w &&& ~~~0x3C0#32 = 0#32 →
        (∀ u : State, (u = s ∨ u = t) → demodulateIn T u = finishDemod (detectedBytes T offset s)
          (windowCount s offset) (byteCount s offset) offset (withFlags w (invalidatePixels u))) →
        ∃ o : DemResult, o.endsWell s ∧ demodulateIn T s = o.apply s ∧ demodulateIn T t = o.apply t := by
      intro offset w hw h
      refine ⟨⟨s.dbyte.store 0 (detectedBytes T offset s), BitVec.ofNat 32 (8 * byteCount s offset),
        BitVec.ofNat 32 (windowCount s offset), BitVec.ofNat 32 offset, 0#32, 0#32, w⟩,
        ⟨hw, fun h => absurd rfl h⟩, ?_, ?_⟩
      · rw [h s (Or.inl rfl)]
        simp [finishDemod, raise, lower, withFlags, invalidatePixels, DemResult.apply, StatusBit.mask,
          StatusBit.index]
      · rw [h t (Or.inr rfl), ← h13]
        simp [finishDemod, raise, lower, withFlags, invalidatePixels, DemResult.apply, StatusBit.mask,
          StatusBit.index]
    have ds : ∀ (offset : Nat) (w : Word), w &&& ~~~0x3C0#32 = 0#32 →
        (∀ u : State, (u = s ∨ u = t) →
          demodulateIn T u = detectStage T offset (withFlags w (invalidatePixels u))) →
        ∃ o : DemResult, o.endsWell s ∧ demodulateIn T s = o.apply s ∧ demodulateIn T t = o.apply t := by
      intro offset w hw h
      have hflag : ∀ u : State, u = s ∨ u = t → flagLeftover offset (withFlags w (invalidatePixels u)) =
          withFlags (w ||| (if spanOf s offset % sps s = 0 then 0#32 else 0x100#32))
            (invalidatePixels u) := by
        intro u hu
        have e1 : spanOf u offset = spanOf s offset := by rcases hu with rfl | rfl; exacts [rfl, so _]
        have e2 : sps u = sps s := by rcases hu with rfl | rfl; exacts [rfl, sp]
        rw [flagLeftover_eq, ← e1, ← e2]
        simp only [withFlags, BitVec.or_assoc]
        rfl
      have hw' : (w ||| (if spanOf s offset % sps s = 0 then 0#32 else 0x100#32)) &&& ~~~0x3C0#32 =
          0#32 := by
        rw [BitVec.and_or_distrib_right, hw]; split_ifs <;> decide
      have hcap : ∀ u : State, u = s ∨ u = t → ((withFlags w (invalidatePixels u)).config.capDbyte <
          byteCount (withFlags w (invalidatePixels u)) offset ↔
          s.config.capDbyte < byteCount s offset) := by
        intro u hu
        rcases hu with rfl | rfl
        · exact Iff.rfl
        · rw [← bc offset, ← h2]; exact Iff.rfl
      by_cases g4 : s.config.capDbyte < byteCount s offset
      · refine fk .capacity _ hw' fun u hu => ?_
        rw [h u hu, detectStage_eq, hflag u hu, if_pos ((hcap u hu).2 g4)]
      · refine fd offset _ hw' fun u hu => ?_
        rw [h u hu, detectStage_eq, hflag u hu, if_neg (fun x => g4 ((hcap u hu).1 x))]
        rcases hu with rfl | rfl
        · rfl
        · rw [← db, ← wc, ← bc]; rfl
    have de : ∀ u : State, u = s ∨ u = t → demodulateIn T u =
        if cfgOk s = false then faultDem .configInvalid (invalidatePixels u)
        else if s.config.capDpcm < s.demNsamp.toNat then faultDem .capacity (invalidatePixels u)
        else if capturedPeak s = 0 then faultDem .zeroPeak (invalidatePixels u)
        else alignStage T (invalidatePixels u) := by
      rintro u (rfl | rfl)
      · exact demodulateIn_eq T _
      · rw [demodulateIn_eq, c, h2, h1, cp]
    have z : ∀ u : State, withFlags 0#32 (invalidatePixels u) = invalidatePixels u := by
      intro u; simp [withFlags]
    by_cases g1 : cfgOk s = false
    · exact fk .configInvalid 0#32 (by decide) fun u hu => by rw [de u hu, z, if_pos g1]
    by_cases g2 : s.config.capDpcm < s.demNsamp.toNat
    · exact fk .capacity 0#32 (by decide) fun u hu => by rw [de u hu, z, if_neg g1, if_pos g2]
    by_cases g3 : capturedPeak s = 0
    · exact fk .zeroPeak 0#32 (by decide) fun u hu => by rw [de u hu, z, if_neg g1, if_neg g2, if_pos g3]
    have da : ∀ u : State, u = s ∨ u = t → demodulateIn T u =
        match locate (capture s) (marker T s) with
        | some offset => detectStage T offset (invalidatePixels u)
        | none =>
          if s.fallbackEn then detectStage T 0 (withFlags 0xC0#32 (invalidatePixels u))
          else faultDem .markerNotFound (withFlags 0x40#32 (invalidatePixels u)) := by
      intro u hu
      rw [de u hu, if_neg g1, if_neg g2, if_neg g3]
      have e1 : (capture (invalidatePixels u) : List K) = capture s := by
        rcases hu with rfl | rfl
        · rfl
        · exact cc
      have e2 : marker T (invalidatePixels u) = marker T s := by
        rcases hu with rfl | rfl
        · rfl
        · exact m
      have e3 : (invalidatePixels u).fallbackEn = s.fallbackEn := by
        rcases hu with rfl | rfl
        · rfl
        · show u.ctrl.getLsbD 0 = s.ctrl.getLsbD 0
          rw [h14]
      have e4 : raise .degraded (raise .markerNotFound (invalidatePixels u)) =
          withFlags 0xC0#32 (invalidatePixels u) := by
        simp only [raise, withFlags, BitVec.or_assoc]
        rfl
      unfold alignStage
      rw [e1, e2, e3, ← e4]
      rfl
    cases hl : locate (capture s) (marker T s) with
    | some offset =>
      exact ds offset 0#32 (by decide) fun u hu => by rw [da u hu, hl, z]
    | none =>
      cases hf : s.fallbackEn with
      | true => exact ds 0 0xC0#32 (by decide) fun u hu => by rw [da u hu, hl, hf]; rfl
      | false => exact fk .markerNotFound 0x40#32 (by decide) fun u hu => by rw [da u hu, hl, hf]; rfl

end Sys2Proof.Machine
end

