-- ==== Sys2Proof/Laws/PerInstr.lean ====
section
/-! SUPPORT. Facts about an instruction as syntax, one lemma per constructor: decoding its encoding gives
it back (family RoundTrip). -/

namespace Sys2Proof.Laws

/-- The well-formed instruction's word decodes to it. -/
def RoundTrip.Statement (i : Instr) : Prop := i.wellFormed = true → decode (encode i) = i

/-- The four fields of a bus word are read back where R100 puts them. -/
theorem busFields (rw : BitVec 1) (region : BitVec 4) (index : BitVec 20) (wdata : Word) :
    (encodeBus rw region index wdata).getLsbD 56 = rw.getLsbD 0 ∧
    (encodeBus rw region index wdata).extractLsb' 52 4 = region ∧
    (encodeBus rw region index wdata).extractLsb' 32 20 = index ∧
    (encodeBus rw region index wdata).extractLsb' 0 32 = wdata := by
  unfold encodeBus
  refine ⟨?_, ?_, ?_, ?_⟩
  · rw [BitVec.getLsbD_append, if_neg (by decide), BitVec.getLsbD_append, if_neg (by decide),
      BitVec.getLsbD_append, if_neg (by decide)]
  all_goals
    apply BitVec.eq_of_getLsbD_eq
    intro i hi
    simp only [BitVec.getLsbD_extractLsb', BitVec.getLsbD_append, hi, decide_true, Bool.true_and]
  · have h1 : ¬ 52 + i < 32 := by omega
    have h2 : ¬ 52 + i - 32 < 20 := by omega
    have h4 : 52 + i - 32 - 20 = i := by omega
    simp only [h1, h2, h4, if_false, if_true, hi]
  · have h1 : ¬ 32 + i < 32 := by omega
    have h2 : 32 + i - 32 < 20 := by omega
    have h3 : 32 + i - 32 = i := by omega
    simp only [h1, h3, hi, if_false, if_true]
  · simp only [Nat.zero_add, hi, if_true]

/-- The two fields of a command word are read back where R103 puts them. -/
theorem commandFields (zero : BitVec 24) (op : BitVec 8) :
    (zero ++ op : Word).extractLsb' 8 24 = zero ∧ (zero ++ op : Word).extractLsb' 0 8 = op := by
  constructor
  · apply BitVec.eq_of_getLsbD_eq
    intro i hi
    have h1 : ¬ 8 + i < 8 := by omega
    have h2 : 8 + i - 8 = i := by omega
    simp only [BitVec.getLsbD_extractLsb', BitVec.getLsbD_append, hi, h1, h2, decide_true,
      Bool.true_and, if_false]
  · apply BitVec.eq_of_getLsbD_eq
    intro i hi
    simp only [BitVec.getLsbD_extractLsb', BitVec.getLsbD_append, hi, Nat.zero_add, decide_true,
      Bool.true_and, if_true]

theorem RoundTrip.rd (region : BitVec 4) (index : BitVec 20) :
    RoundTrip.Statement (.rd region index) := by
  intro _
  obtain ⟨h1, h2, h3, _⟩ := busFields 0#1 region index 0#32
  simp only [encode, decode, decodeBus, h1, h2, h3]
  rfl

theorem RoundTrip.wr (region : BitVec 4) (index : BitVec 20) (wdata : Word) :
    RoundTrip.Statement (.wr region index wdata) := by
  intro _
  obtain ⟨h1, h2, h3, h4⟩ := busFields 1#1 region index wdata
  simp only [encode, decode, decodeBus, h1, h2, h3, h4]
  rfl

theorem RoundTrip.nop : RoundTrip.Statement .nop := fun _ => by decide

theorem RoundTrip.modStart : RoundTrip.Statement .modStart := fun _ => by decide

theorem RoundTrip.demStart : RoundTrip.Statement .demStart := fun _ => by decide

theorem RoundTrip.pixFmt : RoundTrip.Statement .pixFmt := fun _ => by decide

theorem RoundTrip.softReset : RoundTrip.Statement .softReset := fun _ => by decide

theorem RoundTrip.illegalCmd (zero : BitVec 24) (op : BitVec 8) :
    RoundTrip.Statement (.illegalCmd zero op) := by
  intro h
  obtain ⟨h1, h2⟩ := commandFields zero op
  simp only [Instr.wellFormed, isDefinedCommand, definedOps, Bool.not_eq_true', Bool.and_eq_false_iff,
    beq_eq_false_iff_ne, ne_eq] at h
  simp only [encode, decode, decodeCommand, h1, h2]
  by_cases hz : zero = 0#24
  · have hops : op ∉ [0x00#8, 0x01#8, 0x02#8, 0x03#8, 0x0F#8] := by
      rcases h with h | h
      · exact absurd hz h
      · simpa using h
    simp only [List.mem_cons, List.not_mem_nil, or_false, not_or] at hops
    simp only [hz, ne_eq, not_true, if_false, hops]
    rfl
  · simp only [ne_eq, hz, not_false_eq_true, if_true]
    rfl

theorem RoundTrip.sym00 : RoundTrip.Statement .sym00 := fun _ => by decide

theorem RoundTrip.sym01 : RoundTrip.Statement .sym01 := fun _ => by decide

theorem RoundTrip.sym10 : RoundTrip.Statement .sym10 := fun _ => by decide

theorem RoundTrip.sym11 : RoundTrip.Statement .sym11 := fun _ => by decide

theorem RoundTrip.mlo : RoundTrip.Statement .mlo := fun _ => by decide

theorem RoundTrip.mhi : RoundTrip.Statement .mhi := fun _ => by decide

theorem RoundTrip.segReserved (s : BitVec 1) : RoundTrip.Statement (.segReserved s) := fun _ => by
  revert s; decide

end Sys2Proof.Laws
end

