-- ==== Sys2Proof/Laws/Step.lean ====
section
/-! SUPPORT. What a step can do, said once: the fetched instruction, an engine's completion, a change of
`rst`, a passed turn, or the end of the run. -/

namespace Sys2Proof.Machine

/-- Every instruction answers a next state. -/
theorem exec_next (i : Instr) (s : State) : ∃ t, exec i s = .next t := by
  cases i <;> exact ⟨_, rfl⟩

/-- Where a fetched word comes from, and what taking it changes. -/
theorem fetch_cases {s u : State} {w : InstrWord} (h : fetch s = some (w, u)) :
    s.rst = false ∧
      ((∃ d, s.direct = some d ∧ w = d.word ∧ u = { s with direct := none }) ∨
        (∃ t rest, s.direct = none ∧ s.script = t :: rest ∧ w = .bus t ∧
          ((∃ later, s.turns = .agent .host :: later ∧
              u = { s with turns := later, script := rest }) ∨
            (s.turns = [] ∧ u = { s with tick := s.tick + 1, script := rest })))) := by
  unfold fetch at h
  split at h
  · simp at h
  · refine ⟨by simpa using ‹¬ s.rst = true›, ?_⟩
    cases hd : s.direct with
    | some d =>
      rw [hd] at h
      simp only [Option.some.injEq, Prod.mk.injEq] at h
      exact Or.inl ⟨d, rfl, h.1.symm, h.2.symm⟩
    | none =>
      rw [hd] at h
      refine Or.inr ?_
      unfold nextTurn at h
      cases ht : s.turns with
      | cons t later =>
        rw [ht] at h
        cases t with
        | agent a =>
          cases a with
          | host =>
            dsimp only at h
            cases hs : s.script with
            | nil => rw [hs] at h; simp at h
            | cons x rest =>
              rw [hs] at h
              simp only [Option.some.injEq, Prod.mk.injEq] at h
              exact ⟨x, rest, rfl, rfl, h.1.symm, Or.inl ⟨later, rfl, by rw [← hd]; exact h.2.symm⟩⟩
          | mod => simp at h
          | dem => simp at h
        | rstHigh => simp at h
        | rstLow => simp at h
      | nil =>
        rw [ht] at h
        cases hc : freeChoice s with
        | none => rw [hc] at h; simp at h
        | some a =>
          rw [hc] at h
          cases a with
          | host =>
            dsimp only [Option.map] at h
            cases hs : s.script with
            | nil => rw [hs] at h; simp at h
            | cons x rest =>
              rw [hs] at h
              simp only [Option.some.injEq, Prod.mk.injEq] at h
              exact ⟨x, rest, rfl, rfl, h.1.symm, Or.inr ⟨rfl, by rw [← hd]; exact h.2.symm⟩⟩
          | mod => simp at h
          | dem => simp at h

/-- Taking the next event changes the order of events only. -/
theorem nextTurn_cases {s u : State} {t : Turn} (h : nextTurn s = some (t, u)) :
    (∃ later, s.turns = t :: later ∧ u = { s with turns := later }) ∨
      (s.turns = [] ∧ ∃ a, freeChoice s = some a ∧ t = .agent a ∧ u = { s with tick := s.tick + 1 }) := by
  unfold nextTurn at h
  cases ht : s.turns with
  | cons t' later =>
    rw [ht] at h
    simp only [Option.some.injEq, Prod.mk.injEq] at h
    exact Or.inl ⟨later, by rw [h.1], h.2.symm⟩
  | nil =>
    rw [ht] at h
    cases hc : freeChoice s with
    | none => rw [hc] at h; simp at h
    | some a =>
      rw [hc] at h
      simp only [Option.map, Option.some.injEq, Prod.mk.injEq] at h
      exact Or.inr ⟨rfl, a, rfl, h.1.symm, h.2.symm⟩

/-- What each agent needs to have a step (R12, R64). -/
theorem enabled_iff (s : State) (a : Agent) : enabled s a = true ↔ s.rst = false ∧
    match a with
    | .host => s.script ≠ []
    | .mod => s.status.getLsbD 0 = true
    | .dem => s.status.getLsbD 1 = true := by
  cases a <;> simp [enabled] <;> intro _ <;> rfl

/-- The free choice picks an agent that has a step, and picks one wherever some agent has (R360). -/
theorem freeChoice_enabled {s : State} {a : Agent} (h : freeChoice s = some a) : enabled s a = true := by
  unfold freeChoice at h
  split at h
  · rename_i hen
    simpa [← Option.some.inj h] using hen
  · exact List.find?_some h

theorem freeChoice_eq_none {s : State} (h : freeChoice s = none) (a : Agent) : enabled s a = false := by
  unfold freeChoice at h
  split at h
  · simp at h
  · rw [List.find?_eq_none] at h
    simpa using h a (by cases a <;> simp)

/-- Every way a step can end. -/
theorem step_cases {s t : State} (h : step s = .next t) :
    (∃ w u, fetch s = some (w, u) ∧ exec (decode w) u = .next t) ∨
      (fetch s = none ∧ ∃ x u, nextTurn s = some (x, u) ∧ t = takeTurn x u) := by
  unfold step at h
  cases hf : fetch s with
  | some p =>
    obtain ⟨w, u⟩ := p
    rw [hf] at h
    exact Or.inl ⟨w, u, rfl, h⟩
  | none =>
    rw [hf] at h
    cases hn : nextTurn s with
    | none => rw [hn] at h; simp at h
    | some p =>
      obtain ⟨x, u⟩ := p
      rw [hn] at h
      exact Or.inr ⟨rfl, x, u, rfl, by simpa using h.symm⟩

/-- Every way an event without a fetched instruction can end. -/
theorem takeTurn_cases (x : Turn) (s : State) :
    (takeTurn x s = s) ∨ (x = .agent .mod ∧ s.rst = false ∧ s.busy .mod = true ∧
        takeTurn x s = modComplete s) ∨
      (x = .agent .dem ∧ s.rst = false ∧ s.busy .dem = true ∧ takeTurn x s = demComplete s) ∨
      (x = .rstHigh ∧ takeTurn x s = assertReset s) ∨
      (x = .rstLow ∧ takeTurn x s = releaseReset s) := by
  cases x with
  | agent a =>
    cases a with
    | host => exact Or.inl rfl
    | mod =>
      cases h : enabled s .mod with
      | false => exact Or.inl (by simp [takeTurn, h])
      | true =>
        simp only [enabled, Bool.and_eq_true, Bool.not_eq_true'] at h
        exact Or.inr (Or.inl ⟨rfl, h.1, h.2, by simp [takeTurn, enabled, h]⟩)
    | dem =>
      cases h : enabled s .dem with
      | false => exact Or.inl (by simp [takeTurn, h])
      | true =>
        simp only [enabled, Bool.and_eq_true, Bool.not_eq_true'] at h
        exact Or.inr (Or.inr (Or.inl ⟨rfl, h.1, h.2, by simp [takeTurn, enabled, h]⟩))
  | rstHigh => exact Or.inr (Or.inr (Or.inr (Or.inl ⟨rfl, rfl⟩)))
  | rstLow => exact Or.inr (Or.inr (Or.inr (Or.inr ⟨rfl, rfl⟩)))

end Sys2Proof.Machine
end

