-- ==== Sys2Proof/Tests/Slice0.lean ====
section
/-! SUPPORT. Small tests, their expected results taken from the spec's vectors (95_test_vectors.md, named at
each) or computed by hand from its rules; and, for every statement with hypotheses, a concrete state and
operands that meet them all. -/

namespace Sys2Proof.Tests

open Sys2Proof Sys2Proof.Machine

/-! ### Helpers -/

/-- The state an instruction leaves. -/
def after (i : Instr) (s : State) : State :=
  match exec i s with
  | .next t => t
  | .fault _ => s
  | .refused _ => s

/-- The state a step leaves. -/
def stepped (s : State) : State :=
  match step s with
  | .next t => t
  | .fault _ => s
  | .refused _ => s

/-- The configuration CFG-B of 95_test_vectors.md. -/
def cfgB : State :=
  { State.reset with
    sampleRate := 16000#32, baudRate := 1000#32, markerFreq := 2000#32, markerDurUs := 2000#32
    toneFreq0 := 1000#32, toneFreq1 := 3000#32, toneFreq2 := 5000#32, toneFreq3 := 7000#32 }

/-- MOD busy, its turn next. -/
def modTurn (s : State) : State := { s with status := s.status ||| 0x1#32, turns := [.agent .mod] }

/-- DEM busy with an operation, its turn next. -/
def demTurn (op : DemOp) (s : State) : State :=
  { s with status := s.status ||| 0x2#32, demOp := op, turns := [.agent .dem] }

/-- A memory holding listed values from index 0 on. -/
def filled {w : Nat} (vs : List (BitVec w)) : Memory w := (Memory.unspecified w 0).store 0 vs

/-- Sine on quarter turns, where it is rational (elsewhere the tests never ask). -/
def quarterSine (q : ℚ) : ℚ :=
  if Int.fract q = 1 / 4 then 1 else if Int.fract q = 3 / 4 then -1 else 0

/-- Cosine on thirds, quarters and halves of a turn, where it is rational. -/
def rationalCosine (q : ℚ) : ℚ :=
  if Int.fract q = 0 then 1
  else if Int.fract q = 1 / 2 then -1
  else if Int.fract q = 1 / 3 ∨ Int.fract q = 2 / 3 then -1 / 2
  else 0

/-- A profile on the rationals that agrees with NUM_IDEAL on every argument the tests use. -/
def rational : Numeric ℚ where
  sin1 := quarterSine
  cos1 := rationalCosine
  roundOther := Config.ratTrunc

/-- Inside a turn the cosine of the tests takes mirrored values, and at its two ends the same one. -/
theorem rationalCosine_mirror (q : ℚ) (h0 : 0 ≤ q) (h1 : q ≤ 1) :
    rationalCosine (1 - q) = rationalCosine q := by
  rcases eq_or_lt_of_le h0 with rfl | h0
  · decide +kernel
  rcases eq_or_lt_of_le h1 with rfl | h1
  · decide +kernel
  have hf : Int.fract q = q := Int.fract_eq_self.2 ⟨h0.le, h1⟩
  have hg : Int.fract (1 - q) = 1 - q := Int.fract_eq_self.2 ⟨by linarith, by linarith⟩
  unfold rationalCosine
  rw [hf, hg, if_neg (by linarith : ¬ 1 - q = 0), if_neg (by linarith : ¬ q = 0)]
  refine if_congr ?_ rfl (if_congr ?_ rfl rfl)
  · constructor <;> intro h <;> linarith
  · constructor <;> rintro (h | h) <;> [right; left; right; left] <;> linarith

theorem rational_lawful : rational.Lawful where
  sin1_zero := by decide +kernel
  cos1_zero := by decide +kernel
  cos1_half := by decide +kernel
  cos1_mirror := rationalCosine_mirror
  round_range := Config.ratTrunc_range
  round_int := fun n _ _ => Config.ratTrunc_int n

/-- A configuration whose samples are all rational: 4 Hz sample rate, 1 baud (SPS 4), marker 1 Hz and 2 Hz
(MH 4, MS 8), tones 0 to 3 Hz. By R143, `ham(4, ·)` is 0.08, 0.77, 0.77, 0.08. -/
def small : State :=
  { State.reset with
    sampleRate := 4#32, baudRate := 1#32, markerFreq := 1#32, markerDurUs := 2000000#32
    toneFreq0 := 0#32, toneFreq1 := 1#32, toneFreq2 := 2#32, toneFreq3 := 3#32 }

/-- `small` with the payload 0x1D, symbols 0, 1, 3, 1, and MOD busy. -/
def smallMod : State :=
  { small with status := 0x1#32, mbyte := filled [0x1D#8], modNbits := 8#32 }

/-- The frame of `smallMod`, by hand: 0.77 * 32767 = 25230.59 and 0.08 * 32767 = 2621.36, toward zero. -/
def smallFrame : List Pcm :=
  [0, 32767, 0, -32767, 0, 0, 0, 0] ++ [0, 0, 0, 0] ++ [0, 25230, 0, -2621] ++ [0, -25230, 0, 2621] ++
    [0, 25230, 0, -2621] ++ [0, 32767, 0, -32767, 0, 0, 0, 0]

/-- `small` with a capture, and DEM busy with a demodulation. -/
def smallDem (capture : List Pcm) : State :=
  { small with status := 0x2#32, dpcm := filled capture, demNsamp := BitVec.ofNat 32 capture.length }

/-! ### Well-formedness (R103 to R105) -/

theorem test_wellFormed_refuses_defined_commands :
    [0x00#8, 0x01#8, 0x02#8, 0x03#8, 0x0F#8].all (fun op => !(Instr.illegalCmd 0#24 op).wellFormed) =
      true := by decide

theorem test_wellFormed_accepts_undefined_words :
    (Instr.illegalCmd 0#24 0x04#8).wellFormed = true ∧ (Instr.illegalCmd 0#24 0x0E#8).wellFormed = true ∧
      (Instr.illegalCmd 0#24 0x10#8).wellFormed = true ∧ (Instr.illegalCmd 1#24 0x01#8).wellFormed = true ∧
      Instr.softReset.wellFormed = true := by decide

/-! ### Decoding, from words written out bit by bit (R100 to R108) -/

theorem test_decode_rd : decode (.bus
    0b000100000000000000000000100000000000000000000000000000000#57) = .rd 0x2#4 0x00001#20 := by decide

theorem test_decode_wr : decode (.bus
    0b100110000000000000000001111111111111111111111111111111011#57) =
      .wr 0x3#4 0x00003#20 0xFFFFFFFB#32 := by decide

theorem test_decode_commands :
    decode (.cmd 0b00000000000000000000000000000000#32) = .nop ∧
    decode (.cmd 0b00000000000000000000000000000001#32) = .modStart ∧
    decode (.cmd 0b00000000000000000000000000000010#32) = .demStart ∧
    decode (.cmd 0b00000000000000000000000000000011#32) = .pixFmt ∧
    decode (.cmd 0b00000000000000000000000000001111#32) = .softReset ∧
    decode (.cmd 0b10000000000000000000000000000001#32) = .illegalCmd 0x800000#24 0x01#8 ∧
    decode (.cmd 0b00000000000000000000000000000100#32) = .illegalCmd 0#24 0x04#8 := by decide

theorem test_decode_segments :
    decode (.seg 0b000#3) = .sym00 ∧ decode (.seg 0b001#3) = .sym01 ∧ decode (.seg 0b010#3) = .sym10 ∧
    decode (.seg 0b011#3) = .sym11 ∧ decode (.seg 0b100#3) = .mlo ∧ decode (.seg 0b101#3) = .mhi ∧
    decode (.seg 0b110#3) = .segReserved 0#1 ∧ decode (.seg 0b111#3) = .segReserved 1#1 := by decide

/-- V-B1. -/
theorem test_encode_vb1 :
    encode (.wr 0x0#4 0x00008#20 8000#32) = .bus 0x100000800001F40#57 ∧
    encode (.rd 0x2#4 0x00001#20) = .bus 0x020000100000000#57 ∧
    encode (.wr 0x3#4 0x00003#20 (-5)) = .bus 0x1300003FFFFFFFB#57 := by decide

/-- Any bytes decode or are rejected by name. -/
theorem test_decodeBytes :
    (decodeBytes [0x40, 0x1F, 0x00, 0x00, 0x08, 0x00, 0x00, 0x01]).toOption =
      some (.wr 0x0#4 0x00008#20 8000#32) ∧
    (decodeBytes [0x0F, 0x00, 0x00, 0x00]).toOption = some .softReset ∧
    (decodeBytes [0x05]).toOption = some .mhi ∧
    decodeTableWord 8 0b1000 = none ∧ decodeTableWord 64 (2 ^ 57) = none ∧ decodeTableWord 16 0 = none ∧
    (decodeBytes []).toOption = none := by decide

/-! ### Bus transactions -/

/-- The example of R260: a negative sample reads with bits 31:16 all ones. -/
theorem test_rd_widens_sample :
    (after (.rd 0x2#4 5#20) { State.reset with mpcm := (Memory.unspecified 16 1).write 5 (-23169) }).readLog =
      [0xFFFFA57F#32] := by decide

/-- V-B6: a memory of a busy engine reads 0 with BUSY_VIOLATION. -/
theorem test_rd_busy :
    (after (.rd 0x2#4 0#20) { State.reset with status := 0x1#32 }).readLog = [0#32] ∧
    (after (.rd 0x2#4 0#20) { State.reset with status := 0x1#32 }).status = 0x401#32 := by decide

/-- V-B3: write data is narrowed. -/
theorem test_wr_narrows :
    ((after (.wr 0x3#4 0#20 0x00018000#32) State.reset).dpcm.read 0).toInt = -32768 ∧
    ((after (.wr 0x3#4 0#20 0x12347FFF#32) State.reset).dpcm.read 0).toInt = 32767 ∧
    ((after (.wr 0x1#4 0#20 0x1FF#32) State.reset).mbyte.read 0) = 0xFF#8 := by decide

/-- V-B4 and V-B5: BUS_ERR, and reserved bits ignored. -/
theorem test_wr_buserr_and_reserved :
    (after (.wr 0x0#4 0x00#20 1#32) State.reset).status = 0x1000#32 ∧
    (after (.wr 0x2#4 0#20 1#32) State.reset).status = 0x1000#32 ∧
    (after (.rd 0x1#4 65536#20) State.reset).status = 0x1000#32 ∧
    (after (.rd 0x0#4 0x40#20) State.reset).status = 0x1000#32 ∧
    (after (.rd 0x3#4 1048575#20) State.reset).status = 0#32 ∧
    (after (.wr 0x0#4 0x02#20 0xFFFFFFFF#32) State.reset).ctrl = 1#32 ∧
    (after (.wr 0x0#4 0x04#20 0xFFFFFFFF#32) State.reset).irqEn = 0x1FFC#32 := by decide

/-- V-E3: write one to clear. -/
theorem test_wr_status :
    (after (.wr 0x0#4 0x03#20 0x40#32) { State.reset with status := 0xC8#32 }).status = 0x88#32 ∧
    (after (.wr 0x0#4 0x03#20 0x3#32) { State.reset with status := 0xC8#32 }).status = 0xC8#32 := by decide

/-- V-M3: MARKER_SAMPLES saturates; and an odd product is halved before it is doubled. -/
theorem test_rd_marker_samples :
    (after (.rd 0x0#4 0x21#20)
      { State.reset with sampleRate := 0xFFFFFFFF#32, markerDurUs := 0xFFFFFFFF#32 }).readLog =
      [0xFFFFFFFF#32] ∧
    (after (.rd 0x0#4 0x21#20)
      { State.reset with sampleRate := 8001#32, markerDurUs := 1000000#32 }).readLog = [8000#32] := by
  decide

/-! ### Commands (V-B6, V-B7, V-R1) -/

theorem test_nop : after .nop State.reset = State.reset := by decide

theorem test_modStart :
    (after .modStart State.reset).status = 0x1#32 ∧
    (after .modStart { State.reset with status := 0x1#32 }).status = 0x401#32 := by decide

theorem test_demStart :
    (after .demStart { State.reset with status := 0x1#32, demOp := .pix }).status = 0x3#32 ∧
    (after .demStart { State.reset with status := 0x1#32, demOp := .pix }).demOp = .demod := by decide

theorem test_pixFmt :
    (after .pixFmt State.reset).status = 0x2#32 ∧ (after .pixFmt State.reset).demOp = .pix := by decide

theorem test_softReset :
    (after .softReset { cfgB with status := 0x1#32, mbyte := filled [0xAA#8], mpcm := filled [7#16] }).status =
      0#32 ∧
    (after .softReset { cfgB with status := 0x1#32, mbyte := filled [0xAA#8], mpcm := filled [7#16] }).mbyte =
      filled [0xAA#8] ∧
    (after .softReset { cfgB with status := 0x1#32, mbyte := filled [0xAA#8], mpcm := filled [7#16] }).mpcm =
      Memory.unspecified 16 4 ∧
    (after .softReset cfgB).sampleRate = 0#32 := by decide

theorem test_illegalCmd :
    (after (.wr 0x0#4 0x01#20 0x00000101#32) State.reset).status = 0x800#32 ∧
    (after (.wr 0x0#4 0x01#20 0x80000001#32) State.reset).status = 0x800#32 ∧
    (after (.illegalCmd 0#24 0x04#8) State.reset).status = 0x800#32 := by decide

/-! ### Segments -/

/-- By hand from R135 and R143: a tone of frequency 0 is silent. -/
theorem test_sym00 : (after .sym00 small).buf.map (ToneSample.eval rational) = [0, 0, 0, 0] := by
  decide +kernel

theorem test_sym01 :
    (after .sym01 small).buf.map (ToneSample.eval rational) = [0, 77 / 100, 0, -8 / 100] := by
  decide +kernel

/-- R133's example: SPS 2, a quarter turn a sample gives `[0, 0.08]`. -/
theorem test_sym10 :
    (after .sym10 { small with sampleRate := 8000#32, baudRate := 4000#32, toneFreq2 := 2000#32 }).buf.map
      (ToneSample.eval rational) = [0, 8 / 100] := by decide +kernel

theorem test_sym11 :
    (after .sym11 small).buf.map (ToneSample.eval rational) = [0, -77 / 100, 0, 8 / 100] := by
  decide +kernel

/-- R149's example with a carrier, at its rational points: `[0, 0, -1, 0, 0]` at n = 0, 2, 4. -/
theorem test_tone_carrier :
    ([0, 2, 4].map fun n => ToneSample.eval rational
      { freq := 1000, n := n, len := 5, win := .hamming, carrier := 2000, rate := 8000 }) = [0, -1, 0] := by
  decide +kernel

/-- R162, R163: rectangular, no carrier, twice the frequency in the second half. -/
theorem test_mlo :
    (after .mlo { small with carrierFreq := 1#32 }).buf.map (ToneSample.eval rational) = [0, 1, 0, -1] := by
  decide +kernel

theorem test_mhi :
    (after .mhi { small with markerFreq := 0x80000001#32, sampleRate := 8#32, markerDurUs := 1000000#32 }).buf.map
      (ToneSample.eval rational) = [0, 1, 0, -1] := by decide +kernel

/-- R177, R300: code 6. -/
theorem test_segReserved :
    (after (.segReserved 0#1) { small with status := 0x1#32 }).modErr = 6#32 ∧
    (after (.segReserved 1#1) { small with status := 0x1#32 }).status = 0x10#32 := by decide

/-! ### The engines -/

/-- V-A5. -/
theorem test_symbol_fetch :
    (List.range 8).map (symbolAt (filled [0x1B#8, 0xE4#8])) = [0, 1, 2, 3, 3, 2, 1, 0] := by decide

/-- V-S7, rows 1 to 3 and 6, with the codes' order of R308. -/
theorem test_mod_faults :
    (stepped (modTurn { cfgB with modNbits := 7#32 })).modErr = 1#32 ∧
    (stepped (modTurn { cfgB with modNbits := 7#32 })).status = 0x10#32 ∧
    (stepped (modTurn { State.reset with modNbits := 7#32 })).modErr = 1#32 ∧
    (stepped (modTurn { State.reset with modNbits := 2#32 })).modErr = 3#32 ∧
    (stepped (modTurn { cfgB with modNbits := 131072#32 })).modErr = 4#32 := by decide

/-- By hand from R170 to R185. -/
theorem test_mod_frame :
    (modCompleteIn rational smallMod).mpcm = { gen := 1, cells := (filled smallFrame).cells } ∧
    (modCompleteIn rational smallMod).modNsamp = 32#32 ∧
    (modCompleteIn rational smallMod).status = 0x4#32 := by decide +kernel

/-- By hand from R215 to R230: the frame of the modulation above, demodulated. -/
theorem test_dem_frame :
    (demCompleteIn rational (smallDem smallFrame)).dbyte = { gen := 3, cells := [(0, 0x1D#8)] } ∧
    (demCompleteIn rational (smallDem smallFrame)).demNbits = 8#32 ∧
    (demCompleteIn rational (smallDem smallFrame)).demNsym = 4#32 ∧
    (demCompleteIn rational (smallDem smallFrame)).demOffset = 0#32 ∧
    (demCompleteIn rational (smallDem smallFrame)).status = 0x8#32 := by decide +kernel

/-- V-D4, rows 1 to 4. -/
theorem test_dem_faults :
    (stepped (demTurn .demod cfgB)).demErr = 5#32 ∧
    (stepped (demTurn .demod cfgB)).status = 0x20#32 ∧
    (stepped (demTurn .demod { State.reset with demNsamp := 3#32 })).demErr = 3#32 ∧
    (stepped (demTurn .demod { cfgB with demNsamp := 1048577#32 })).demErr = 4#32 := by decide

/-- V-D4, rows 5 and 6 (a capture shorter than the marker): fatal, or fallen back. -/
theorem test_dem_not_found :
    (demCompleteIn rational { smallDem [1, 2, 3] with ctrl := 0#32 }).status = 0x60#32 ∧
    (demCompleteIn rational { smallDem [1, 2, 3] with ctrl := 0#32 }).demErr = 2#32 ∧
    (demCompleteIn rational { smallDem [1, 2, 3] with ctrl := 1#32 }).status = 0xC8#32 ∧
    (demCompleteIn rational { smallDem [1, 2, 3] with ctrl := 1#32 }).demErr = 0#32 := by decide +kernel

/-- V-X2, rows 1, 2 and 5. -/
theorem test_pix :
    (stepped (demTurn .pix { cfgB with
      demNbits := 16#32, dbyte := filled [0x1B#8, 0xE4#8], frameH := 2#32, frameW := 3#32 })).dbyte =
      filled [0x1B#8, 0xE4#8, 0#8, 0#8, 0#8, 0#8] ∧
    (stepped (demTurn .pix { cfgB with
      demNbits := 16#32, dbyte := filled [0x1B#8, 0xE4#8], frameH := 2#32, frameW := 3#32 })).status =
      0x208#32 ∧
    (stepped (demTurn .pix { cfgB with
      demNbits := 16#32, dbyte := filled [0x1B#8, 0xE4#8], frameH := 1#32, frameW := 1#32 })).pixCount =
      1#32 ∧
    (stepped (demTurn .pix { cfgB with demNbits := 16#32, frameH := 256#32, frameW := 257#32 })).demErr =
      4#32 := by decide

/-- V-X1 and R247. -/
theorem test_codec :
    bitsFromBytes [0x1B, 0x80] = [false, false, false, true, true, false, true, true, true, false, false,
      false, false, false, false, false] ∧
    bytesFromBits [true, false, true, false, true, false, true, false, true, true, true, true, true] =
      [0xAA#8] ∧
    pixelsFromBits (bitsFromBytes [1, 2, 3, 4, 5, 6]) 2 5 = [1, 2, 3, 4, 5, 6, 0, 0, 0, 0] := by decide

/-- V-E1. -/
theorem test_irq :
    State.irq { State.reset with irqEn := 0x14#32, status := 0x10#32 } = true ∧
    State.irq { State.reset with irqEn := 0x4#32, status := 0x10#32 } = false ∧
    State.irq { State.reset with irqEn := 0x1FFC#32, status := 0x1#32 } = false := by decide

/-! ### The two functions the host calls -/

/-- The instruction of a table row runs as the first one after reset: V-B1's write of SAMPLE_RATE. -/
theorem test_withFetchWord_bus :
    (stepped (State.reset.withFetchWord 64 0x100000800001F40)).sampleRate = 8000#32 := by decide

theorem test_withFetchWord_cmd_seg :
    (stepped (State.reset.withFetchWord 32 0x00000001)).status = 0x1#32 ∧
    (stepped (State.reset.withFetchWord 8 0b110)).modErr = 6#32 := by decide

/-! ### Witnesses: states and operands that meet a statement's hypotheses, clause by clause -/

/-- The host's turn, with one transaction in its script. -/
def hostTurn (t : BitVec 57) (s : State) : State := { s with turns := [.agent .host], script := [t] }

/-- Both engines busy. -/
def bothBusy : State := { cfgB with status := 0x3#32 }

/-- A small block: every capacity 8 elements, with listed cells. -/
def smallCaps : State :=
  { State.reset with
    config := { capMbyte := 8, capMpcm := 8, capDpcm := 8, capDbyte := 8, qRound := .trunc } }

theorem witness_DecodeOfEncode : (Instr.illegalCmd 0#24 0x04#8).wellFormed = true := by decide

theorem witness_EncodeOfDecode :
    (0x100000800001F40#57).getLsbD 56 = true ∧ (0x020000100000000#57).getLsbD 56 = false := by decide

theorem witness_StepRuns :
    ((hostTurn 0#57 State.reset).rst = false ∧ (hostTurn 0#57 State.reset).direct = none ∧
      (hostTurn 0#57 State.reset).turns = .agent .host :: [] ∧
      (hostTurn 0#57 State.reset).script = 0#57 :: []) ∧
    (State.rst { State.reset with direct := some (.cmd 1#32) } = false ∧
      State.direct { State.reset with direct := some (.cmd 1#32) } = some (.cmd 1#32)) ∧
    (State.rst { State.reset with direct := some (.seg 6#3) } = false ∧
      State.direct { State.reset with direct := some (.seg 6#3) } = some (.seg 6#3)) := by decide

theorem witness_StepOfABusyEngine :
    ((modTurn cfgB).rst = false ∧ (modTurn cfgB).direct = none ∧ (modTurn cfgB).turns = .agent .mod :: [] ∧
      (modTurn cfgB).status.getLsbD 0 = true) ∧
    ((demTurn .demod cfgB).rst = false ∧ (demTurn .demod cfgB).direct = none ∧
      (demTurn .demod cfgB).turns = .agent .dem :: [] ∧ (demTurn .demod cfgB).status.getLsbD 1 = true) := by
  decide

/-- With no turn given: the free choice is the host, MOD or DEM where that agent alone has a step, whatever the
free value is. -/
theorem witness_free_turns :
    (State.turns { State.reset with script := [0#57] } = [] ∧
      freeChoice { State.reset with script := [0#57] } = some .host) ∧
    (State.turns { cfgB with status := 0x1#32 } = [] ∧
      freeChoice { cfgB with status := 0x1#32 } = some .mod) ∧
    (State.turns { cfgB with status := 0x2#32, demOp := .pix } = [] ∧
      freeChoice { cfgB with status := 0x2#32, demOp := .pix } = some .dem) := by
  refine ⟨⟨rfl, ?_⟩, ⟨rfl, ?_⟩, ⟨rfl, ?_⟩⟩ <;> unfold freeChoice <;>
    cases Config.freeAgent _ <;> decide

/-- A lawful profile, the shortest window, and a window with a centre. -/
theorem witness_HammingWindow :
    rational.Lawful ∧ (2 ≤ 2 ∧ 1 < 2) ∧ hamming rational 2 1 = 2 / 25 ∧ hamming rational 3 1 = 1 :=
  ⟨rational_lawful, by decide, by decide +kernel, by decide +kernel⟩

/-- Where every agent has a step, the free value's agent has one; where none has, nothing is chosen. -/
theorem witness_FreeChoice :
    (∀ a, enabled { bothBusy with script := [0#57] } a = true) ∧ freeChoice State.reset = none := by
  refine ⟨fun a => by cases a <;> decide, ?_⟩
  unfold freeChoice
  cases Config.freeAgent _ <;> decide

/-- Both sides of the equivalence happen: with nothing left, and held in reset with a script left. -/
theorem witness_StepStops :
    (State.reset.turns = [] ∧ State.reset.direct = none ∧ State.reset.script = [] ∧
      State.reset.status.getLsbD 0 = false ∧ State.reset.status.getLsbD 1 = false) ∧
    (State.turns { State.reset with rst := true, script := [0#57] } = [] ∧
      State.rst { State.reset with rst := true, script := [0#57] } = true) ∧
    (∃ t, step (hostTurn 0#57 State.reset) = .next t) := by
  refine ⟨by decide, by decide, ⟨_, rfl⟩⟩

theorem witness_StepKeepsTheInvariant :
    ∃ t, (hostTurn 0#57 State.reset).Inv ∧ step (hostTurn 0#57 State.reset) = .next t := by
  refine ⟨_, ?_, rfl⟩
  constructor <;> first | decide | (intro p hp; simp [hostTurn, State.reset] at hp)

theorem witness_StepKeepsTheParameters : ∃ t, step (hostTurn 0#57 State.reset) = .next t := ⟨_, rfl⟩

theorem witness_NothingMoves :
    State.rst { hostTurn 0#57 State.reset with rst := true } = true ∧
    State.turns { hostTurn 0#57 State.reset with rst := true } = .agent .host :: [] := by decide

theorem witness_ResetPulse :
    State.rst { bothBusy with turns := [.rstHigh, .rstLow] } = false ∧
    State.direct { bothBusy with turns := [.rstHigh, .rstLow] } = none ∧
    State.turns { bothBusy with turns := [.rstHigh, .rstLow] } = .rstHigh :: .rstLow :: [] := by decide

/-- Each clause at the ends of its range. -/
theorem witness_InvalidAccess :
    (5 ≤ (0x5#4).toNat ∧ 5 ≤ (0xF#4).toNat) ∧
    (0x40 ≤ (0x40#20).toNat ∧ 0x40 ≤ (0xFFFFF#20).toNat) ∧
    ((0x07#20).toNat ∈ [0x07, 0x0F, 0x14, 0x15, 0x16, 0x17, 0x1F] ∧
      (0x1F#20).toNat ∈ [0x07, 0x0F, 0x14, 0x15, 0x16, 0x17, 0x1F]) ∧
    (0x22 ≤ (0x22#20).toNat ∧ (0x3F#20).toNat ≤ 0x3F) ∧
    (smallCaps.config.capMbyte ≤ (8#20).toNat ∧ smallCaps.config.capMpcm ≤ (8#20).toNat ∧
      smallCaps.config.capDpcm ≤ (8#20).toNat ∧ smallCaps.config.capDbyte ≤ (8#20).toNat) ∧
    ((0x00#20).toNat ∈ [0x00, 0x05, 0x06, 0x19, 0x1B, 0x1C, 0x1D, 0x1E, 0x20, 0x21] ∧
      (0x21#20).toNat ∈ [0x00, 0x05, 0x06, 0x19, 0x1B, 0x1C, 0x1D, 0x1E, 0x20, 0x21]) := by decide

/-- The clauses about reserved indices and about read-only registers share no index. -/
theorem witness_InvalidAccess_disjoint :
    ([0x00, 0x05, 0x06, 0x19, 0x1B, 0x1C, 0x1D, 0x1E, 0x20, 0x21].all fun i =>
      !([0x07, 0x0F, 0x14, 0x15, 0x16, 0x17, 0x1F].contains i) && decide (i < 0x22)) = true := by decide

/-- The last valid index of every memory, both engines idle; and busy, at the last valid and the first
invalid index. -/
theorem witness_MemoryAccess :
    smallCaps.status.getLsbD 0 = false ∧ smallCaps.status.getLsbD 1 = false ∧
    (7#20).toNat < smallCaps.config.capMbyte ∧ (7#20).toNat < smallCaps.config.capMpcm ∧
    (7#20).toNat < smallCaps.config.capDpcm ∧ (7#20).toNat < smallCaps.config.capDbyte ∧
    bothBusy.status.getLsbD 0 = true ∧ bothBusy.status.getLsbD 1 = true ∧
    (65535#20).toNat < bothBusy.config.capMbyte ∧ ¬(65536#20).toNat < bothBusy.config.capMbyte ∧
    (65535#20).toNat < bothBusy.config.capDbyte ∧ ¬(65536#20).toNat < bothBusy.config.capDbyte ∧
    (1048575#20).toNat < bothBusy.config.capMpcm ∧ (1048575#20).toNat < bothBusy.config.capDpcm := by decide

theorem witness_RepeatedRead : ∃ t, exec (.rd 0x3#4 7#20) smallCaps = .next t := ⟨_, rfl⟩

theorem witness_RegisterWrite :
    cfgB.status.getLsbD 0 = false ∧ cfgB.status.getLsbD 1 = false ∧
    (demTurn .demod cfgB).status.getLsbD 0 = false ∧ (modTurn cfgB).status.getLsbD 1 = false := by decide

theorem witness_LockedRegister :
    (modTurn cfgB).status.getLsbD 0 = true ∧ (demTurn .pix cfgB).status.getLsbD 1 = true ∧
    (0x02#20).toNat ∈ [0x02, 0x08, 0x09, 0x0A, 0x0B, 0x0C, 0x0D, 0x0E, 0x10, 0x11, 0x12, 0x13] ∧
    (0x13#20).toNat ∈ [0x02, 0x08, 0x09, 0x0A, 0x0B, 0x0C, 0x0D, 0x0E, 0x10, 0x11, 0x12, 0x13] := by decide

theorem witness_HostCannotChange :
    (∃ t, exec (.wr 0x0#4 0x01#20 0x0000000E#32) bothBusy = .next t) ∧
    ¬((0x0#4 : BitVec 4) = 0x0#4 ∧ (0x01#20 : BitVec 20) = 0x01#20 ∧ (0x0000000E#32 : Word) = 0x0000000F#32) ∧
    (∃ t, exec (.rd 0x4#4 0#20) bothBusy = .next t) ∧
    bothBusy.status.getLsbD 0 = true ∧ bothBusy.status.getLsbD 1 = true := by
  refine ⟨⟨_, rfl⟩, by decide, ⟨_, rfl⟩, by decide, by decide⟩

theorem witness_IllegalCommand :
    ([0x04#32, 0x0E#32, 0x10#32, 0xFF#32, 0x100#32, 0x80000001#32].all fun v =>
      !([0x00000000, 0x00000001, 0x00000002, 0x00000003, 0x0000000F].contains v.toNat)) = true := by decide

theorem witness_SymbolSegment :
    (Instr.sym11, small.toneFreq3) ∈ [(Instr.sym00, small.toneFreq0), (Instr.sym01, small.toneFreq1),
      (Instr.sym10, small.toneFreq2), (Instr.sym11, small.toneFreq3)] ∧
    (Instr.mhi, 2) ∈ [(Instr.mlo, 1), (Instr.mhi, 2)] := by decide

theorem witness_SequencerRenders : smallMod.status.getLsbD 0 = true := by decide

theorem cfgOk_small : ConfigValid small := by decide

/-- `smallMod` with room for one sample less than its frame has. -/
def tightMod : State := { smallMod with config := { Config.default with capMpcm := 31 } }

/-- `smallMod` whose frame is silent. -/
def silentMod : State := { smallMod with markerFreq := 0#32, modNbits := 0#32 }

/-- One state for each fault of a modulation: odd length, no configuration, a frame that does not fit, a
silent frame. -/
theorem witness_ModulationFaults :
    ((modTurn { cfgB with modNbits := 7#32 }).status.getLsbD 0 = true ∧
      (modTurn { cfgB with modNbits := 7#32 }).modNbits.toNat % 2 = 1) ∧
    ((modTurn State.reset).status.getLsbD 0 = true ∧ (modTurn State.reset).modNbits.toNat % 2 = 0 ∧
      ¬ConfigValid (modTurn State.reset)) ∧
    (tightMod.status.getLsbD 0 = true ∧ tightMod.modNbits.toNat % 2 = 0 ∧ ConfigValid tightMod ∧
      tightMod.config.capMpcm <
        2 * (2 * (tightMod.sampleRate.toNat * tightMod.markerDurUs.toNat / 2000000)) +
          tightMod.modNbits.toNat / 2 * (tightMod.sampleRate.toNat / tightMod.baudRate.toNat)) ∧
    (silentMod.status.getLsbD 0 = true ∧ silentMod.modNbits.toNat % 2 = 0 ∧ ConfigValid silentMod ∧
      payloadBytes silentMod ≤ silentMod.config.capMbyte ∧ frameLen silentMod ≤ silentMod.config.capMpcm ∧
      ∀ x ∈ frameSamples silentMod, ToneSample.eval rational x = 0) := by
  refine ⟨by decide, by decide, by decide, by decide, by decide, by decide, by decide, by decide,
    by decide +kernel⟩

theorem witness_ModulationWrites :
    rational.Lawful ∧ smallMod.config.wf ∧ smallMod.status.getLsbD 0 = true ∧
    smallMod.modNbits.toNat % 2 = 0 ∧ ConfigValid smallMod ∧
    payloadBytes smallMod ≤ smallMod.config.capMbyte ∧ frameLen smallMod ≤ smallMod.config.capMpcm ∧
    (∃ x ∈ frameSamples smallMod, ToneSample.eval rational x ≠ 0) ∧
    (∃ x, (frameSamples smallMod)[31]? = some x) := by
  refine ⟨rational_lawful, by decide, by decide, by decide, by decide, by decide, by decide,
    by decide +kernel, ⟨_, rfl⟩⟩

theorem witness_Quantiser :
    (∃ x ∈ [(-2 : ℚ), 0, 1], x ≠ 0) ∧ ([(-2 : ℚ), 0, 1])[0]? = some (-2 : ℚ) ∧ ([(-2 : ℚ), 0, 1])[1]? = some (0 : ℚ) ∧
    (∀ x ∈ [(-2 : ℚ), 0, 1], |x| ≤ |(-2 : ℚ)|) := by
  refine ⟨by decide +kernel, rfl, rfl, ?_⟩
  intro x hx
  simp only [List.mem_cons, List.not_mem_nil, or_false] at hx
  rcases hx with rfl | rfl | rfl <;> norm_num

/-- A modulation that faults on its turn, from a state with the two flags clear. -/
theorem witness_ModulationEnds :
    ∃ t, State.rst (modTurn { cfgB with modNbits := 7#32 }) = false ∧
      (modTurn { cfgB with modNbits := 7#32 }).direct = none ∧
      (modTurn { cfgB with modNbits := 7#32 }).turns = .agent .mod :: [] ∧
      (modTurn { cfgB with modNbits := 7#32 }).status.getLsbD 0 = true ∧
      (modTurn { cfgB with modNbits := 7#32 }).status.getLsbD 2 = false ∧
      (modTurn { cfgB with modNbits := 7#32 }).status.getLsbD 4 = false ∧
      step (modTurn { cfgB with modNbits := 7#32 }) = .next t := by
  refine ⟨_, by decide, by decide, by decide, by decide, by decide, by decide, rfl⟩

theorem witness_DemOperationEnds :
    ∃ t, State.rst (demTurn .pix cfgB) = false ∧ (demTurn .pix cfgB).direct = none ∧
      (demTurn .pix cfgB).turns = .agent .dem :: [] ∧ (demTurn .pix cfgB).status.getLsbD 1 = true ∧
      (demTurn .pix cfgB).status.getLsbD 3 = false ∧ (demTurn .pix cfgB).status.getLsbD 5 = false ∧
      step (demTurn .pix cfgB) = .next t := by
  refine ⟨_, by decide, by decide, by decide, by decide, by decide, by decide, rfl⟩

/-- The last position at which the template fits; the example of R209 with whole numbers is located at 2. -/
theorem witness_Correlation :
    2 + [(1 : ℚ), 2].length ≤ [(0 : ℚ), 0, 1, 2].length ∧
    locate [(0 : ℚ), 0, 1, 2] [1, 2] = some 2 ∧ locate [(1 : ℚ)] [1, 2] = none ∧ (0 : ℚ) < 3 := by
  decide +kernel

/-- A capture with no positive correlation with the marker: 24 equal samples. -/
def flatCapture : State := smallDem (List.replicate 24 100)

/-- A capture of one sample more than DPCM holds. -/
def longCapture : State := { smallDem [1] with demNsamp := 1048577#32 }

/-- One state for each fault of a demodulation before its windows are cut. -/
theorem witness_DemodulationFaults :
    ((demTurn .demod State.reset).status.getLsbD 1 = true ∧ (demTurn .demod State.reset).demOp = .demod ∧
      ¬ConfigValid (demTurn .demod State.reset)) ∧
    (longCapture.status.getLsbD 1 = true ∧ longCapture.demOp = .demod ∧ ConfigValid longCapture ∧
      ¬longCapture.demNsamp.toNat ≤ longCapture.config.capDpcm) ∧
    ((smallDem [0, 0]).status.getLsbD 1 = true ∧ (smallDem [0, 0]).demOp = .demod ∧
      ConfigValid (smallDem [0, 0]) ∧
      (smallDem [0, 0]).demNsamp.toNat ≤ (smallDem [0, 0]).config.capDpcm ∧
      ∀ i, i < (smallDem [0, 0]).demNsamp.toNat → (smallDem [0, 0]).dpcm.read i = 0#16) ∧
    (flatCapture.status.getLsbD 1 = true ∧ flatCapture.demOp = .demod ∧ ConfigValid flatCapture ∧
      flatCapture.demNsamp.toNat ≤ flatCapture.config.capDpcm ∧
      ¬(∀ i, i < flatCapture.demNsamp.toNat → flatCapture.dpcm.read i = 0#16) ∧
      locate (capture flatCapture) (marker rational flatCapture) = none ∧
      flatCapture.ctrl.getLsbD 0 = false) := by
  refine ⟨by decide, by decide, by decide, by decide, by decide, by decide, by decide, by decide,
    by decide +kernel, by decide⟩

/-- `small` with eight windows to detect, room for one byte, and a marker to find. -/
def tightFound : State :=
  { smallDem (smallFrame.take 8 ++ List.replicate 40 0) with
    config := { Config.default with capDbyte := 1 } }

/-- The same with nothing to find, and the fallback enabled. -/
def tightFlat : State :=
  { smallDem (List.replicate 48 100) with
    ctrl := 1#32, config := { Config.default with capDbyte := 1 } }

theorem witness_DemodulationWithoutRoom :
    (tightFound.status.getLsbD 1 = true ∧ tightFound.demOp = .demod ∧ ConfigValid tightFound ∧
      tightFound.demNsamp.toNat ≤ tightFound.config.capDpcm ∧ tightFound.dpcm.read 1 ≠ 0#16 ∧
      locate (capture tightFound) (marker rational tightFound) = some 0 ∧
      tightFound.config.capDbyte <
        (tightFound.demNsamp.toNat - 2 * markerLen tightFound - 2 * 0) / sps tightFound / 4) ∧
    (tightFlat.status.getLsbD 1 = true ∧ tightFlat.demOp = .demod ∧ ConfigValid tightFlat ∧
      tightFlat.demNsamp.toNat ≤ tightFlat.config.capDpcm ∧ tightFlat.dpcm.read 1 ≠ 0#16 ∧
      locate (capture tightFlat) (marker rational tightFlat) = none ∧
      tightFlat.ctrl.getLsbD 0 = true ∧
      tightFlat.config.capDbyte <
        (tightFlat.demNsamp.toNat - 2 * markerLen tightFlat - 2 * 0) / sps tightFlat / 4) := by
  decide +kernel

/-- `flatCapture` with the fallback enabled. -/
def flatFallback : State := { flatCapture with ctrl := 1#32 }

/-- The capture of `test_dem_frame`, located; and a flat one under the fallback. -/
theorem witness_DemodulationWrites :
    ((smallDem smallFrame).config.wf ∧ (smallDem smallFrame).status.getLsbD 1 = true ∧
      (smallDem smallFrame).demOp = .demod ∧ ConfigValid (smallDem smallFrame) ∧
      (smallDem smallFrame).demNsamp.toNat ≤ (smallDem smallFrame).config.capDpcm ∧
      (∃ i, i < (smallDem smallFrame).demNsamp.toNat ∧ (smallDem smallFrame).dpcm.read i ≠ 0#16) ∧
      locate (capture (smallDem smallFrame)) (marker rational (smallDem smallFrame)) = some 0 ∧
      detectedCodes rational 0 (smallDem smallFrame) = [0#2, 1#2, 3#2, 1#2] ∧
      windowCount (smallDem smallFrame) 0 / 4 ≤ (smallDem smallFrame).config.capDbyte) ∧
    (flatFallback.config.wf ∧ flatFallback.status.getLsbD 1 = true ∧ flatFallback.demOp = .demod ∧
      ConfigValid flatFallback ∧ flatFallback.demNsamp.toNat ≤ flatFallback.config.capDpcm ∧
      (∃ i, i < flatFallback.demNsamp.toNat ∧ flatFallback.dpcm.read i ≠ 0#16) ∧
      locate (capture flatFallback) (marker rational flatFallback) = none ∧
      flatFallback.ctrl.getLsbD 0 = true ∧
      windowCount flatFallback 0 / 4 ≤ flatFallback.config.capDbyte) := by
  refine ⟨⟨by decide, by decide, by decide, by decide, by decide, ⟨1, by decide, by decide⟩,
    by decide +kernel, by decide +kernel, by decide⟩, by decide, by decide, by decide, by decide,
    by decide, ⟨1, by decide, by decide⟩, by decide +kernel, by decide, by decide⟩

theorem witness_DetectedCode : (detectedCodes rational 0 (smallDem smallFrame))[2]? = some 3#2 := by
  decide +kernel

theorem witness_RoundTripLength :
    ConfigValid { smallMod with demNsamp := 32#32 } ∧
    State.demNsamp { smallMod with demNsamp := 32#32 } = 32#32 ∧ frameLen smallMod = 32 := by decide

/-- At the capacity and one above it. -/
theorem witness_PixelFormatting :
    State.config cfgB = .default ∧ Config.default.wf ∧ (demTurn .pix cfgB).status.getLsbD 1 = true ∧
    (demTurn .pix cfgB).demOp = .pix ∧ (256#32).toNat * (256#32).toNat ≤ cfgB.config.capDbyte ∧
    cfgB.config.capDbyte < (65537#32).toNat * (1#32).toNat := by decide

theorem witness_BytesOfBits :
    [0xAA#8, 0x1B#8][15 / 8]? = some 0x1B#8 ∧
    (bytesFromBits (bitsFromBytes [0xAA#8, 0x1B#8] ++ [true]))[1]? = some 0x1B#8 := by decide

theorem witness_EnginesCommute :
    bothBusy.rst = false ∧ bothBusy.direct = none ∧ bothBusy.status.getLsbD 0 = true ∧
    bothBusy.status.getLsbD 1 = true := by decide

/-- A flag that stays, at both ends of the range; and one that the host clears. -/
theorem witness_StickyFlags :
    (∃ t, step (hostTurn 0#57 { State.reset with status := 0x1004#32 }) = .next t ∧
      t.status = 0x1004#32) ∧
    (∃ t, step (hostTurn 0x100000300001000#57 { State.reset with status := 0x1004#32 }) = .next t ∧
      t.status = 0x4#32) ∧
    (0x1004#32).getLsbD 2 = true ∧ (0x1004#32).getLsbD 12 = true := by
  refine ⟨⟨_, rfl, by decide⟩, ⟨_, rfl, by decide⟩, by decide, by decide⟩

theorem witness_IdealTones :
    (4 : Nat) < 5 ∧ (tone rational 1 1 .hamming 0 4)[0]? = some 0 ∧
    (0 : ℚ) ∈ tone rational 1 3 .rect 0 (2 * 1) ∧ (0 : ℚ) ∈ tone rational 1 3 .hamming 1 (2 * 1) := by
  decide +kernel

end Sys2Proof.Tests
end

section
/-! PROOFS. Accesses to the registers of region 0 (10_state.md): what a read returns, what a write does, and the
statements about ID, CMD and the derived registers. -/

namespace Sys2Proof.Machine

/-! ### A register's address leads to it -/

/-- Region 0 holds the registers, each at its word index (R21, R86). -/
theorem target_register (c : Config) {index : BitVec 20} {r : Reg} (h : index.toNat = r.index) :
    target c 0x0#4 index = some (.reg r) := by
  simp [target, h, ofIndex_index]

/-- A read of a register returns its value and raises nothing (R260, R266). -/
theorem exec_rd_register (s : State) {index : BitVec 20} {r : Reg} (h : index.toNat = r.index) :
    exec (.rd 0x0#4 index) s = .next { s with readLog := s.readLog ++ [regRead r s] } := by
  have hread : busRead 0x0#4 index s = (regRead r s, s) := by
    rw [busRead, target_register s.config h]
  simp [exec, execRd, hread, returnData]

/-- A write to a read-only register is dropped with BUS_ERR (R264). -/
theorem exec_wr_readOnlyRegister (v : Word) (s : State) {index : BitVec 20} {r : Reg}
    (h : index.toNat = r.index) (hro : r.access = .ro) :
    exec (.wr 0x0#4 index v) s = .next (raise .busErr s) := by
  simp [exec, execWr, busWrite, target_register s.config h, hro]

/-- A write to any other register is that register's `RegWrite` (R263). -/
theorem exec_wr_register (v : Word) (s : State) {index : BitVec 20} {r : Reg}
    (h : index.toNat = r.index) (hrw : r.access ≠ .ro) :
    exec (.wr 0x0#4 index v) s = .next (regWrite r v s) := by
  simp [exec, execWr, busWrite, target_register s.config h, hrw]

/-! ### Derived registers -/

/-- SPS as its read gives it: 0 at BAUD_RATE 0, else the saturated quotient (R46). -/
theorem readSps_eq (s : State) :
    readSps s = if s.baudRate.toNat = 0 then 0#32
      else BitVec.ofNat 32 (min (2 ^ 32 - 1) (s.sampleRate.toNat / s.baudRate.toNat)) := by
  by_cases h : s.baudRate.toNat = 0
  · simp [readSps, h]
  · have hpos : 1 ≤ s.baudRate.toNat := Nat.one_le_iff_ne_zero.2 h
    rw [readSps, if_pos hpos, if_neg h, saturate, sps, Nat.min_comm]

/-- MARKER_SAMPLES as its read gives it: the saturated length of a marker (R47). -/
theorem readMarkerSamples_eq (s : State) :
    readMarkerSamples s = BitVec.ofNat 32 (min (2 ^ 32 - 1)
      (2 * (s.sampleRate.toNat * s.markerDurUs.toNat / 2000000))) := by
  rw [readMarkerSamples, saturate, markerLen, markerHalf, Nat.min_comm]

/-- Settles O14: each is its register's read, with the saturated quantity written out. -/
theorem derivedRegistersAreComputedAtTheRead : Obligations.DerivedRegistersAreComputedAtTheRead := by
  unfold Obligations.DerivedRegistersAreComputedAtTheRead
  intro s
  rw [← readSps_eq, ← readMarkerSamples_eq]
  exact ⟨exec_rd_register s (r := .sps) rfl, exec_rd_register s (r := .markerSamples) rfl⟩

/-! ### ID -/

/-- Raising BUS_ERR sets bit 12 of STATUS (R25). -/
theorem raise_busErr (s : State) : raise .busErr s = { s with status := s.status ||| 0x1000#32 } := rfl

/-- Settles O15: ID is a read-only register whose value is a constant. -/
theorem idReadsItsConstantAndDropsWrites : Obligations.IdReadsItsConstantAndDropsWrites := by
  unfold Obligations.IdReadsItsConstantAndDropsWrites
  intro s v
  rw [← raise_busErr]
  exact ⟨exec_rd_register s (r := .id) rfl, exec_wr_readOnlyRegister v s (r := .id) rfl rfl⟩

/-! ### CMD -/

/-- A write to CMD hands its word to the command decoder, in every state: CMD has no lock (R23, R93). -/
theorem regWrite_cmd (v : Word) (s : State) : regWrite .cmd v s = runCommand (decodeCommand v) s := by
  simp [regWrite, Reg.lock, Lock.holds]

/-- The instruction of a command does what the command decoder does with it. -/
theorem exec_toInstr_command (c : Command) (s : State) : exec c.toInstr s = .next (runCommand c s) := by
  cases c <;> rfl

/-- Settles O23: the write and the decoded instruction both run the word's command. -/
theorem writeToCmdRunsTheCommandWord : Obligations.WriteToCmdRunsTheCommandWord := by
  unfold Obligations.WriteToCmdRunsTheCommandWord
  intro s v
  refine ⟨?_, exec_rd_register s (r := .cmd) rfl⟩
  calc exec (.wr 0x0#4 0x01#20 v) s
      = .next (regWrite .cmd v s) := exec_wr_register v s (r := .cmd) rfl (by decide)
    _ = .next (runCommand (decodeCommand v) s) := by rw [regWrite_cmd]
    _ = exec (decode (.cmd v)) s := (exec_toInstr_command (decodeCommand v) s).symm

end Sys2Proof.Machine
end

section
/-! PROOFS. Accesses that a busy engine refuses (20_memory.md, R90 to R93), and the symbol fetch (R78). -/

namespace Sys2Proof.Machine

/-! ### What an address names -/

/-- The engine whose memory an element belongs to; a register belongs to none (R54, R91). -/
def Target.owner : Target → Option Engine
  | .reg _ => none
  | .mbyte _ => some .mod
  | .mpcm _ => some .mod
  | .dpcm _ => some .dem
  | .dbyte _ => some .dem

/-- The host may only read an element: a read-only register, or a cell of an engine's output (R87, R264). -/
def Target.readOnly : Target → Bool
  | .reg r => decide (r.access = .ro)
  | .mbyte _ => false
  | .mpcm _ => true
  | .dpcm _ => false
  | .dbyte _ => true

/-- Raising BUSY_VIOLATION sets bit 10 of STATUS (R25). -/
theorem raise_busyViolation (s : State) :
    raise .busyViolation s = { s with status := s.status ||| 0x400#32 } := rfl

section Access

variable {s : State} {region : BitVec 4} {index : BitVec 20} {t : Target} {e : Engine} {cap : Nat}

/-! ### One refused access -/

/-- A read of an address that names nothing returns 0 with BUS_ERR (R264). -/
theorem exec_rd_invalid (ht : target s.config region index = none) :
    exec (.rd region index) s = .next (returnData 0#32 (raise .busErr s)) := by
  have hread : busRead region index s = (0#32, raise .busErr s) := by rw [busRead, ht]
  simp [exec, execRd, hread]

/-- A write to an address that names nothing is dropped with BUS_ERR (R264). -/
theorem exec_wr_invalid (v : Word) (ht : target s.config region index = none) :
    exec (.wr region index v) s = .next (raise .busErr s) := by
  simp [exec, execWr, busWrite, ht]

/-- A write to an element that the host may only read is dropped with BUS_ERR, its engine busy or not (R264). -/
theorem exec_wr_readOnly (v : Word) (ht : target s.config region index = some t)
    (hro : t.readOnly = true) : exec (.wr region index v) s = .next (raise .busErr s) := by
  cases t with
  | reg r => simp [exec, execWr, busWrite, ht, of_decide_eq_true hro]
  | mpcm i | dbyte i => simp [exec, execWr, busWrite, ht]
  | mbyte i | dpcm i => cases hro

/-- A read of a cell whose engine is busy returns 0 with BUSY_VIOLATION (R91). -/
theorem exec_rd_busy (ht : target s.config region index = some t) (ho : t.owner = some e)
    (hb : s.busy e = true) :
    exec (.rd region index) s = .next (returnData 0#32 (raise .busyViolation s)) := by
  have hread : busRead region index s = (0#32, raise .busyViolation s) := by
    cases t with
    | reg r => cases ho
    | mbyte i | mpcm i | dpcm i | dbyte i => cases ho; simp [busRead, ht, readOwned, hb]
  simp [exec, execRd, hread]

/-- A write to a writable cell whose engine is busy is dropped with BUSY_VIOLATION (R91). -/
theorem exec_wr_busy (v : Word) (ht : target s.config region index = some t) (ho : t.owner = some e)
    (hro : t.readOnly = false) (hb : s.busy e = true) :
    exec (.wr region index v) s = .next (raise .busyViolation s) := by
  cases t with
  | reg r => cases ho
  | mpcm i | dbyte i => cases hro
  | mbyte i | dpcm i => cases ho; simp [exec, execWr, busWrite, ht, hb]

/-! ### One memory of a busy engine -/

/-- A memory that the host reads and writes, its engine busy: both accesses are refused, with BUSY_VIOLATION
below the capacity and with BUS_ERR from there on (R91). -/
theorem exec_writableMemory_busy (v : Word)
    (ht : target s.config region index = if index.toNat < cap then some t else none)
    (ho : t.owner = some e) (hro : t.readOnly = false) (hb : s.busy e = true) :
    if index.toNat < cap then
      exec (.rd region index) s = .next (returnData 0#32 (raise .busyViolation s)) ∧
      exec (.wr region index v) s = .next (raise .busyViolation s)
    else
      exec (.rd region index) s = .next (returnData 0#32 (raise .busErr s)) ∧
      exec (.wr region index v) s = .next (raise .busErr s) := by
  split <;> rename_i h
  · rw [if_pos h] at ht
    exact ⟨exec_rd_busy ht ho hb, exec_wr_busy v ht ho hro hb⟩
  · rw [if_neg h] at ht
    exact ⟨exec_rd_invalid ht, exec_wr_invalid v ht⟩

/-- A memory that the host only reads, its engine busy: reads are refused as above, and a write is a read-only
violation at every index (R91). -/
theorem exec_readOnlyMemory_busy (v : Word)
    (ht : target s.config region index = if index.toNat < cap then some t else none)
    (ho : t.owner = some e) (hro : t.readOnly = true) (hb : s.busy e = true) :
    (if index.toNat < cap then
      exec (.rd region index) s = .next (returnData 0#32 (raise .busyViolation s))
    else
      exec (.rd region index) s = .next (returnData 0#32 (raise .busErr s))) ∧
    exec (.wr region index v) s = .next (raise .busErr s) := by
  split <;> rename_i h
  · rw [if_pos h] at ht
    exact ⟨exec_rd_busy ht ho hb, exec_wr_readOnly v ht hro⟩
  · rw [if_neg h] at ht
    exact ⟨exec_rd_invalid ht, exec_wr_invalid v ht⟩

end Access

/-- Settles O19: each memory's region, owner and direction, and the two lemmas above. -/
theorem busyMemoryAccessIsRefused : Obligations.BusyMemoryAccessIsRefused := by
  unfold Obligations.BusyMemoryAccessIsRefused
  intro s index v
  refine ⟨fun hmod => ⟨?mbyte, ?mpcm⟩, fun hdem => ⟨?dpcm, ?dbyte⟩⟩
  case mbyte => exact exec_writableMemory_busy (t := .mbyte index.toNat) v rfl rfl rfl hmod
  case mpcm => exact exec_readOnlyMemory_busy (t := .mpcm index.toNat) v rfl rfl rfl hmod
  case dpcm => exact exec_writableMemory_busy (t := .dpcm index.toNat) v rfl rfl rfl hdem
  case dbyte => exact exec_readOnlyMemory_busy (t := .dbyte index.toNat) v rfl rfl rfl hdem

/-! ### Locked registers -/

/-- Only a register that the host may write is ever locked (R21). -/
theorem access_ne_readOnly_of_locked {r : Reg} {s : State} (hl : r.lock.holds s = true) :
    r.access ≠ .ro := by
  intro hro
  have hnone : r.lock = .none := by revert hro; cases r <;> decide
  rw [hnone] at hl
  cases hl

/-- A write to a locked register is dropped with BUSY_VIOLATION (R92). -/
theorem exec_wr_locked (v : Word) {s : State} {index : BitVec 20} {r : Reg} (h : index.toNat = r.index)
    (hl : r.lock.holds s = true) : exec (.wr 0x0#4 index v) s = .next (raise .busyViolation s) := by
  rw [exec_wr_register v s h (access_ne_readOnly_of_locked hl), regWrite, if_pos hl]

/-- The registers that either engine locks, in the order of R92. -/
def lockedByEither : List Reg :=
  [.ctrl, .sampleRate, .baudRate, .carrierFreq, .markerFreq, .markerDurUs, .frameH, .frameW,
    .toneFreq0, .toneFreq1, .toneFreq2, .toneFreq3]

/-- They have the lock of either engine in the map of registers (R21). -/
theorem lock_of_mem_lockedByEither : ∀ r ∈ lockedByEither, r.lock = .any := by decide

/-- Settles O22: every listed index is that of a locked register. -/
theorem lockedRegisterWriteIsDropped : Obligations.LockedRegisterWriteIsDropped := by
  unfold Obligations.LockedRegisterWriteIsDropped
  intro s v index
  rw [← raise_busyViolation]
  refine ⟨fun hbusy hindex => ?either, fun hmod hindex => ?modNbits, fun hdem hindex => ?demNsamp⟩
  case either =>
    obtain ⟨r, hr, hri⟩ : ∃ r ∈ lockedByEither, r.index = index.toNat := List.mem_map.1 hindex
    have hany : s.anyBusy = true := Bool.or_eq_true_iff.2 hbusy
    exact exec_wr_locked v hri.symm (by rw [lock_of_mem_lockedByEither r hr]; exact hany)
  case modNbits => exact exec_wr_locked (r := .modNbits) v (by rw [hindex]; rfl) hmod
  case demNsamp => exact exec_wr_locked (r := .demNsamp) v (by rw [hindex]; rfl) hdem

/-! ### The symbol fetch -/

/-- A payload bit as a number: byte `i / 8` shifted so that its bit `7 - i mod 8` is the lowest (R71). -/
theorem toNat_payloadBit (m : Memory 8) (i : Nat) :
    (payloadBit m i).toNat = (m.read (i / 8)).toNat / 2 ^ (7 - i % 8) % 2 :=
  Nat.toNat_testBit _ _

/-- A symbol's code as a number: the earlier bit counts 2 (R78). -/
theorem toNat_symbolAt (m : Memory 8) (k : Nat) :
    (symbolAt m k).toNat = 2 * (payloadBit m (2 * k)).toNat + (payloadBit m (2 * k + 1)).toNat := by
  unfold symbolAt
  cases payloadBit m (2 * k) <;> cases payloadBit m (2 * k + 1) <;> rfl

/-- Two neighbouring bits of a number are one digit to base 4. -/
theorem two_bits_eq_mod_four (n j : Nat) :
    2 * (n / 2 ^ (j + 1) % 2) + n / 2 ^ j % 2 = n / 2 ^ j % 4 := by
  rw [pow_succ, ← Nat.div_div_eq_div_mul]
  omega

/-- Settles O35: the two bits of a symbol are neighbours in one byte, since `2k` is even. -/
theorem symbolFetchTakesTwoBitsOfAByte : Obligations.SymbolFetchTakesTwoBitsOfAByte := by
  unfold Obligations.SymbolFetchTakesTwoBitsOfAByte
  intro m k
  have hbits := toNat_symbolAt m k
  rw [toNat_payloadBit, toNat_payloadBit] at hbits
  refine ⟨hbits, ?_⟩
  have hbyte : 2 * k / 8 = k / 4 := by omega
  have hbyte' : (2 * k + 1) / 8 = k / 4 := by omega
  have hhigh : 7 - 2 * k % 8 = 6 - 2 * (k % 4) + 1 := by omega
  have hlow : 7 - (2 * k + 1) % 8 = 6 - 2 * (k % 4) := by omega
  rw [hbits, hbyte, hbyte', hhigh, hlow, two_bits_eq_mod_four]

end Sys2Proof.Machine
end

section
/-! PROOFS. Command words outside the table of R104 (30_encoding.md, R105, R276). -/

namespace Sys2Proof.Machine

/-- A command word is its two fields, bits 31:8 above bits 7:0 (R103). -/
theorem commandFields_append (v : Word) : v.extractLsb' 8 24 ++ v.extractLsb' 0 8 = v :=
  (BitVec.extractLsb'_append_extractLsb'_eq_extractLsb' (Nat.zero_add 8).symm).trans
    BitVec.extractLsb'_eq_self

/-- With a defined opcode below 24 zero bits, the word is one of the five of R104. -/
theorem toNat_mem_of_isDefinedCommand {zero : BitVec 24} {op : BitVec 8}
    (h : isDefinedCommand zero op = true) :
    (zero ++ op : Word).toNat ∈ [0x00000000, 0x00000001, 0x00000002, 0x00000003, 0x0000000F] := by
  obtain ⟨hzero, hop⟩ := Bool.and_eq_true_iff.1 h
  obtain rfl : zero = 0#24 := eq_of_beq hzero
  have hwords : ∀ o ∈ definedOps, (0#24 ++ o : Word).toNat ∈
      [0x00000000, 0x00000001, 0x00000002, 0x00000003, 0x0000000F] := by decide
  exact hwords op (List.contains_iff_mem.1 hop)

/-- A word outside the table decodes to ILLEGAL_CMD with its own fields: it is that instruction's encoding
(R105). -/
theorem decode_cmd_of_undefined {v : Word}
    (hv : v.toNat ∉ [0x00000000, 0x00000001, 0x00000002, 0x00000003, 0x0000000F]) :
    decode (.cmd v) = .illegalCmd (v.extractLsb' 8 24) (v.extractLsb' 0 8) := by
  have hwf : (Instr.illegalCmd (v.extractLsb' 8 24) (v.extractLsb' 0 8)).wellFormed = true := by
    rw [Instr.wellFormed, Bool.not_eq_true', Bool.eq_false_iff]
    intro hdef
    have hmem := toNat_mem_of_isDefinedCommand hdef
    rw [commandFields_append] at hmem
    exact hv hmem
  have hround := Laws.RoundTrip.illegalCmd _ _ hwf
  rwa [encode, commandFields_append] at hround

/-- ILLEGAL_CMD sets bit 11 of STATUS and changes nothing else, whatever its fields (R25, R276). -/
theorem exec_illegalCmd (zero : BitVec 24) (op : BitVec 8) (s : State) :
    exec (.illegalCmd zero op) s = .next { s with status := s.status ||| 0x800#32 } := rfl

/-- Settles O30: the word decodes to ILLEGAL_CMD, and a write to CMD runs what its word decodes to (O23). -/
theorem illegalCommandOnlyRaisesItsFlag : Obligations.IllegalCommandOnlyRaisesItsFlag := by
  unfold Obligations.IllegalCommandOnlyRaisesItsFlag
  intro s v hv
  have hdecode := decode_cmd_of_undefined hv
  refine ⟨⟨_, _, hdecode, exec_illegalCmd _ _ s⟩, ?_⟩
  obtain ⟨hwrite, _⟩ := writeToCmdRunsTheCommandWord s v
  rw [hwrite, hdecode, exec_illegalCmd]

end Sys2Proof.Machine
end

section
/-! PROOFS. The Marker Correlator: the correlation's values and the first crossing
(44_marker_correlator.md, R202, R204). -/

namespace Sys2Proof.Machine

section Values

variable {K : Type} [Field K]

/-- Where the whole template lies inside the capture, the inner product at position `k` runs over the
template's length (R202). -/
theorem dot_drop_eq_sum {x m : List K} {k : Nat} (hk : k + m.length ≤ x.length) :
    dot (x.drop k) m = ∑ j ∈ Finset.range m.length, x.getD (k + j) 0 * m.getD j 0 := by
  have hmin : min (x.drop k).length m.length = m.length := by
    rw [List.length_drop]; omega
  rw [dot_eq_sum, hmin]
  simp only [List.getD_eq_getElem?_getD, List.getElem?_drop]

variable [LinearOrder K]

/-- A list with a first crossing is not empty. -/
theorem ne_nil_of_firstCrossing_eq_some {corr : List K} {k : Nat} (h : firstCrossing corr = some k) :
    corr ≠ [] := by
  rintro rfl
  cases h

/-- With the largest value named, the first crossing is the position of a value above seven tenths of it
that has none before it (R204). -/
theorem firstCrossing_eq_some_iff {corr : List K} {M : K} (hM : M ∈ corr) (hle : ∀ c ∈ corr, c ≤ M)
    (k : Nat) :
    firstCrossing corr = some k ↔
      (∃ c, corr[k]? = some c ∧ 7 * M < 10 * c) ∧
        ∀ j c, j < k → corr[j]? = some c → 10 * c ≤ 7 * M := by
  rw [firstCrossing_eq corr hM hle, List.findIdx?_eq_some_iff_getElem]
  simp only [decide_eq_true_eq, not_lt, List.getElem?_eq_some_iff]
  constructor
  · rintro ⟨hk, habove, hbefore⟩
    refine ⟨⟨_, ⟨hk, rfl⟩, habove⟩, ?_⟩
    rintro j _ hj ⟨_, rfl⟩
    exact hbefore j hj
  · rintro ⟨⟨_, ⟨hk, rfl⟩, habove⟩, hbefore⟩
    exact ⟨hk, habove, fun j hj => hbefore j _ hj ⟨hj.trans hk, rfl⟩⟩

end Values

/-- Settles O41: the length and the value at each position, the inner product written as its sum. -/
theorem correlationIsValidMode : Obligations.CorrelationIsValidMode := by
  unfold Obligations.CorrelationIsValidMode
  intro K _ x m
  refine ⟨length_correlation x m, fun k hk => ?_⟩
  rw [getElem?_correlation x m hk, dot_drop_eq_sum hk]

/-- Settles O42: a located answer comes from a list that is not empty, which has a largest value; with
that value named, both directions are the first crossing's own equivalence. -/
theorem locateAnswersTheFirstCrossing : Obligations.LocateAnswersTheFirstCrossing := by
  unfold Obligations.LocateAnswersTheFirstCrossing
  intro K _ _ _ x m k
  rw [locate]
  constructor
  · intro hfound
    obtain ⟨M, hM, hle⟩ := exists_largest _ (ne_nil_of_firstCrossing_eq_some hfound)
    exact ⟨M, hM, hle, (firstCrossing_eq_some_iff hM hle k).1 hfound⟩
  · rintro ⟨M, hM, hle, hfirst⟩
    exact (firstCrossing_eq_some_iff hM hle k).2 hfirst

end Sys2Proof.Machine
end

section
/-! PROOFS. The Demodulator: the decision of one window (45_demodulator.md, R217, R222 to R226). -/

namespace Sys2Proof.Machine

/-- A window that is counted lies before the trailing marker, so inside the capture (R222, R223). -/
theorem window_end_le_demNsamp {s : State} {offset w : Nat} (hw : w < windowCount s offset) :
    offset + markerLen s + w * sps s + sps s ≤ s.demNsamp.toNat := by
  have hwidth : 0 < sps s := Nat.pos_of_ne_zero fun h0 => by simp [windowCount, h0] at hw
  have hend : (w + 1) * sps s ≤ spanOf s offset :=
    (Nat.mul_le_mul_right _ hw).trans (Nat.div_mul_le_self _ _)
  rw [Nat.succ_mul, spanOf_eq] at hend
  omega

section Values

variable {K : Type} [Field K]

/-- A template sees no more of a list than its own length (R224). -/
theorem dot_take_length (a m : List K) : dot (a.take m.length) m = dot a m := by
  rw [dot, dot, List.zipWith_eq_zipWith_take_min, List.zipWith_eq_zipWith_take_min (l₁ := a)]
  simp [List.take_take, Nat.min_comm]

/-- A window inside the capture, of the template's length: its inner product runs over its samples, in place
(R223, R224). -/
theorem dot_windowOf_eq_sum {x m : List K} {start w : Nat}
    (h : start + w * m.length + m.length ≤ x.length) :
    dot (windowOf x start m.length w) m =
      ∑ j ∈ Finset.range m.length, x.getD (start + w * m.length + j) 0 * m.getD j 0 := by
  rw [windowOf, dot_take_length, dot_drop_eq_sum h]

/-- The normalised capture, sample by sample (R217). -/
theorem capture_eq_map (s : State) :
    (capture s : List K) = (captured s).map fun v : ℤ => (v : K) / (capturedPeak s : K) := by
  simp [capture, ← List.map_eq_flatMap, Function.comp_def]

/-- A captured sample over the peak (R217). -/
theorem getD_capture {s : State} {i : Nat} (hi : i < s.demNsamp.toNat) :
    (capture s : List K).getD i 0 = ((s.dpcm.read i).toInt : K) / (capturedPeak s : K) := by
  simp [capture_eq_map, captured, hi]

/-- The inner product of a window with `symtone(d)`, read off DPCM (R217, R224). -/
theorem dot_window_symtone (T : Numeric K) {s : State} {offset w : Nat}
    (hw : w < windowCount s offset) (d : SymbolCode) :
    dot (windowOf (capture s) (offset + markerLen s) (sps s) w) (symtone T s d) =
      ∑ j ∈ Finset.range (sps s),
        ((s.dpcm.read (offset + markerLen s + w * sps s + j)).toInt : K) / (capturedPeak s : K) *
          (symtone T s d).getD j 0 := by
  have hend := window_end_le_demNsamp hw
  have hsum := dot_windowOf_eq_sum (x := capture s) (m := symtone T s d)
    (start := offset + markerLen s) (w := w) (by simpa using hend)
  rw [length_symtone] at hsum
  rw [hsum]
  refine Finset.sum_congr rfl fun j hj => ?_
  have hj := Finset.mem_range.1 hj
  rw [getD_capture (by omega)]

variable [LinearOrder K]

/-- The code of a window that is counted is the decision over its four inner products (R226). -/
theorem getElem?_detectedCodes_eq_some_iff {T : Numeric K} {offset w : Nat} {s : State}
    {c : SymbolCode} :
    (detectedCodes T offset s)[w]? = some c ↔
      w < windowCount s offset ∧
        bestCode (fun d => dot (windowOf (capture s) (offset + markerLen s) (sps s) w)
          (symtone T s d)) = c := by
  simp [detectedCodes, List.getElem?_eq_some_iff]

end Values

/-- Settles O48: the window's code is the decision over its inner products; these are the sums over the
samples in DPCM, and the decision takes the least code of the largest. -/
theorem detectedCodeIsTheLeastOfMaximalScore : Obligations.DetectedCodeIsTheLeastOfMaximalScore := by
  unfold Obligations.DetectedCodeIsTheLeastOfMaximalScore
  intro K _ _ _ T s offset w c hc x score
  obtain ⟨hw, hbest⟩ := getElem?_detectedCodes_eq_some_iff.1 hc
  have hscore : (fun d => dot (windowOf (capture s) (offset + markerLen s) (sps s) w)
      (symtone T s d)) = score := funext (dot_window_symtone T hw)
  rw [hscore] at hbest
  subst hbest
  exact bestCode_cases score

end Sys2Proof.Machine
end

section
/-! PROOFS. The host's transactions (47_host_commands.md): the accesses refused with BUS_ERR (R264), the read of
every register (R266), and NOP (R270). -/

namespace Sys2Proof.Machine

/-! ### Addresses that name nothing -/

/-- An index leads to no register but the one it is the index of (R21). -/
theorem index_eq_of_ofIndex_eq_some {n : Nat} {r : Reg} (h : Reg.ofIndex n = some r) : r.index = n := by
  unfold Reg.ofIndex at h
  split at h <;> cases h <;> rfl

/-- The reserved indices (R44, R264): 0x22 and above, and the gaps in the map of R21. -/
def IsReservedIndex (n : Nat) : Prop :=
  0x22 ≤ n ∨ n ∈ [0x07, 0x0F, 0x14, 0x15, 0x16, 0x17, 0x1F]

/-- No register stands at a reserved index. -/
theorem not_isReservedIndex_index (r : Reg) : ¬IsReservedIndex r.index := by
  unfold IsReservedIndex
  cases r <;> decide

/-- A reserved index of region 0 names nothing. -/
theorem target_reservedIndex (c : Config) {index : BitVec 20} (h : IsReservedIndex index.toNat) :
    target c 0x0#4 index = none := by
  have hnone : Reg.ofIndex index.toNat = none := by
    rw [Option.eq_none_iff_forall_not_mem]
    intro r hr
    rw [← index_eq_of_ofIndex_eq_some hr] at h
    exact not_isReservedIndex_index r h
  simp [target, hnone]

/-- A reserved region names nothing (R86). -/
theorem target_reservedRegion (c : Config) {region : BitVec 4} (index : BitVec 20)
    (h : 5 ≤ region.toNat) : target c region index = none := by
  have hne : ∀ k : BitVec 4, k.toNat < 5 → region ≠ k := by
    rintro k hk rfl
    omega
  simp [target, hne]

/-- An address that names nothing is refused in both directions (R264). -/
theorem exec_access_invalid {s : State} {region : BitVec 4} {index : BitVec 20} (v : Word)
    (ht : target s.config region index = none) :
    exec (.rd region index) s = .next (returnData 0#32 (raise .busErr s)) ∧
    exec (.wr region index v) s = .next (raise .busErr s) :=
  ⟨exec_rd_invalid ht, exec_wr_invalid v ht⟩

/-! ### Elements that the host may only read -/

/-- A write into a memory that the host only reads is dropped with BUS_ERR at every index, below the capacity
and above (R264). -/
theorem exec_wr_readOnlyMemory {s : State} {region : BitVec 4} {index : BitVec 20} {t : Target} {cap : Nat}
    (v : Word) (ht : target s.config region index = if index.toNat < cap then some t else none)
    (hro : t.readOnly = true) : exec (.wr region index v) s = .next (raise .busErr s) := by
  by_cases h : index.toNat < cap
  · exact exec_wr_readOnly v (ht.trans (if_pos h)) hro
  · exact exec_wr_invalid v (ht.trans (if_neg h))

/-- The registers that the host may only read, in the order of the map of R21. -/
def readOnlyRegisters : List Reg :=
  [.id, .modErr, .demErr, .modNsamp, .demNbits, .demNsym, .demOffset, .pixCount, .sps, .markerSamples]

/-- They are read-only in the map of registers. -/
theorem access_of_mem_readOnlyRegisters : ∀ r ∈ readOnlyRegisters, r.access = .ro := by decide

/-! ### The refusals with BUS_ERR -/

/-- Settles O16: the address names nothing, or an element that the host may only read; CMD is a register. -/
theorem invalidAccessIsRefusedWithBusErr : Obligations.InvalidAccessIsRefusedWithBusErr := by
  unfold Obligations.InvalidAccessIsRefusedWithBusErr
  intro s region index v
  refine ⟨fun hregion => ?reservedRegion, ?reservedIndex, ?mbyte, ?mpcm, ?dpcm, ?dbyte, ?readOnlyMemory,
    ?readOnlyRegister, ?cmd⟩
  case reservedRegion => exact exec_access_invalid v (target_reservedRegion s.config index hregion)
  case reservedIndex =>
    rintro rfl hindex
    have hreserved : IsReservedIndex index.toNat := by
      rcases hindex with hhigh | hgap | ⟨hhigh, _⟩
      · exact .inl (by omega)
      · exact .inr hgap
      · exact .inl hhigh
    exact exec_access_invalid v (target_reservedIndex s.config hreserved)
  case mbyte | mpcm | dpcm | dbyte =>
    rintro rfl hcap
    exact exec_access_invalid v (if_neg (Nat.not_lt.2 hcap))
  case readOnlyMemory =>
    rintro (rfl | rfl)
    · exact exec_wr_readOnlyMemory (t := .mpcm index.toNat) v rfl rfl
    · exact exec_wr_readOnlyMemory (t := .dbyte index.toNat) v rfl rfl
  case readOnlyRegister =>
    rintro rfl hindex
    obtain ⟨r, hr, hri⟩ : ∃ r ∈ readOnlyRegisters, r.index = index.toNat := List.mem_map.1 hindex
    exact exec_wr_readOnlyRegister v s hri.symm (access_of_mem_readOnlyRegisters r hr)
  case cmd =>
    rintro rfl rfl
    exact exec_rd_register s (r := .cmd) rfl

/-! ### Every register's read -/

/-- A read at a register's own index returns its value and changes nothing else (R266). -/
theorem exec_rd_index (s : State) (r : Reg) :
    exec (.rd 0x0#4 (BitVec.ofNat 20 r.index)) s =
      .next { s with readLog := s.readLog ++ [regRead r s] } :=
  exec_rd_register s (by cases r <;> rfl)

/-- Settles O13: one read for each row of the map of registers (R21). -/
theorem registerReadReturnsItsValue : Obligations.RegisterReadReturnsItsValue := by
  unfold Obligations.RegisterReadReturnsItsValue
  intro s reads
  rw [← readSps_eq, ← readMarkerSamples_eq]
  have hreads (r : Reg) : reads (BitVec.ofNat 20 r.index) (regRead r s) := exec_rd_index s r
  exact ⟨hreads .id, hreads .cmd, hreads .ctrl, hreads .status, hreads .irqEn, hreads .modErr,
    hreads .demErr, hreads .sampleRate, hreads .baudRate, hreads .carrierFreq, hreads .markerFreq,
    hreads .markerDurUs, hreads .frameH, hreads .frameW, hreads .toneFreq0, hreads .toneFreq1,
    hreads .toneFreq2, hreads .toneFreq3, hreads .modNbits, hreads .modNsamp, hreads .demNsamp,
    hreads .demNbits, hreads .demNsym, hreads .demOffset, hreads .pixCount, hreads .sps,
    hreads .markerSamples⟩

/-! ### NOP -/

/-- NOP keeps the state (R270). -/
@[simp] theorem exec_nop (s : State) : exec .nop s = .next s := rfl

/-- The command word 0 is NOP's encoding (R104). -/
theorem decode_cmd_zero : decode (.cmd 0x00000000#32) = .nop := Laws.RoundTrip.nop rfl

/-- Settles O25: a write to CMD runs what its word decodes to (O23), and the word 0 is NOP. -/
theorem nopChangesNothing : Obligations.NopChangesNothing := by
  unfold Obligations.NopChangesNothing
  intro s
  obtain ⟨hwrite, _⟩ := writeToCmdRunsTheCommandWord s 0x00000000#32
  exact ⟨exec_nop s, by rw [hwrite, decode_cmd_zero, exec_nop]⟩

end Sys2Proof.Machine
end

section
/-! PROOFS. The encodings (30_encoding.md): the round trips between words and instructions, and the spec's own words. -/

namespace Sys2Proof.Machine

/-- Settles O1: each constructor has its own round trip. -/
theorem decodeOfEncodeIsTheInstruction : Obligations.DecodeOfEncodeIsTheInstruction := by
  unfold Obligations.DecodeOfEncodeIsTheInstruction
  intro i
  cases i with
  | rd region index => exact Laws.RoundTrip.rd region index
  | wr region index wdata => exact Laws.RoundTrip.wr region index wdata
  | nop => exact Laws.RoundTrip.nop
  | modStart => exact Laws.RoundTrip.modStart
  | demStart => exact Laws.RoundTrip.demStart
  | pixFmt => exact Laws.RoundTrip.pixFmt
  | softReset => exact Laws.RoundTrip.softReset
  | illegalCmd zero op => exact Laws.RoundTrip.illegalCmd zero op
  | sym00 => exact Laws.RoundTrip.sym00
  | sym01 => exact Laws.RoundTrip.sym01
  | sym10 => exact Laws.RoundTrip.sym10
  | sym11 => exact Laws.RoundTrip.sym11
  | mlo => exact Laws.RoundTrip.mlo
  | mhi => exact Laws.RoundTrip.mhi
  | segReserved low => exact Laws.RoundTrip.segReserved low

/-! ### From a word and back -/

/-- A bus word is its four fields, the highest first (R100). -/
theorem encodeBus_fields (t : BitVec 57) :
    encodeBus (t.extractLsb' 56 1) (t.extractLsb' 52 4) (t.extractLsb' 32 20) (t.extractLsb' 0 32) = t := by
  unfold encodeBus
  rw [BitVec.extractLsb'_append_extractLsb'_eq_extractLsb' (rfl : 56 = 52 + 4),
    BitVec.extractLsb'_append_extractLsb'_eq_extractLsb' (rfl : 52 = 32 + 20),
    BitVec.extractLsb'_append_extractLsb'_eq_extractLsb' (rfl : 32 = 0 + 32)]
  exact BitVec.extractLsb'_eq_self

/-- The field `rw` is bit 56 (R100). -/
theorem extractLsb'_rw (t : BitVec 57) : t.extractLsb' 56 1 = BitVec.ofBool (t.getLsbD 56) := by
  apply BitVec.eq_of_getLsbD_eq
  intro i hi
  obtain rfl : i = 0 := by omega
  simp

/-- Clearing bits 31:0 of a bus word clears its write data alone. -/
theorem encodeBus_clear_wdata (rw : BitVec 1) (region : BitVec 4) (index : BitVec 20) (wdata : Word) :
    encodeBus rw region index wdata &&& ~~~0xFFFFFFFF#57 = encodeBus rw region index 0#32 := by
  have hmask : ~~~0xFFFFFFFF#57 = BitVec.allOnes 25 ++ 0#32 := by decide
  have hand := BitVec.and_append (x₁ := rw ++ region ++ index) (x₂ := BitVec.allOnes 25) (y₁ := wdata)
    (y₂ := 0#32)
  rw [BitVec.and_allOnes, BitVec.and_zero] at hand
  rw [hmask]
  exact hand

/-- Every command word is the encoding of a well-formed instruction: of one of the five of R104, or of ILLEGAL_CMD
with the word's own fields (R105). -/
theorem exists_encode_eq_cmd (v : Word) : ∃ i : Instr, i.wellFormed = true ∧ encode i = .cmd v := by
  by_cases hdef : isDefinedCommand (v.extractLsb' 8 24) (v.extractLsb' 0 8) = true
  · have hmem := toNat_mem_of_isDefinedCommand hdef
    rw [commandFields_append] at hmem
    obtain ⟨i, hi, hv⟩ : ∃ i ∈ [Instr.nop, .modStart, .demStart, .pixFmt, .softReset],
        (encode i).toNat = v.toNat := List.mem_map.1 hmem
    have hcmd : ∀ i ∈ [Instr.nop, .modStart, .demStart, .pixFmt, .softReset],
        i.wellFormed = true ∧ encode i = .cmd (BitVec.ofNat 32 (encode i).toNat) := by decide
    obtain ⟨hwf, henc⟩ := hcmd i hi
    exact ⟨i, hwf, by rw [henc, hv, BitVec.ofNat_toNat, BitVec.setWidth_eq]⟩
  · refine ⟨.illegalCmd (v.extractLsb' 8 24) (v.extractLsb' 0 8), by simpa [Instr.wellFormed] using hdef, ?_⟩
    rw [encode, commandFields_append]

/-- A command word decodes to the well-formed instruction that it encodes. -/
theorem wellFormed_and_encode_of_decode_cmd (v : Word) :
    (decode (.cmd v)).wellFormed = true ∧ encode (decode (.cmd v)) = .cmd v := by
  obtain ⟨i, hwf, henc⟩ := exists_encode_eq_cmd v
  have hdec : decode (.cmd v) = i := henc ▸ decodeOfEncodeIsTheInstruction i hwf
  rw [hdec]
  exact ⟨hwf, henc⟩

/-- Every word decodes to a well-formed instruction. -/
theorem wellFormed_decode (w : InstrWord) : (decode w).wellFormed = true := by
  cases w with
  | bus t =>
    simp only [decode, decodeBus]
    split <;> rfl
  | cmd v => exact (wellFormed_and_encode_of_decode_cmd v).1
  | seg d => revert d; decide

/-- Settles O2: a bus word is put together again from its fields, a command word is the encoding of an
instruction, and a descriptor is one of eight. -/
theorem encodeOfDecodeIsTheWord : Obligations.EncodeOfDecodeIsTheWord := by
  unfold Obligations.EncodeOfDecodeIsTheWord
  refine ⟨wellFormed_decode, fun t ht => ?write, fun t ht => ?read,
    fun w => (wellFormed_and_encode_of_decode_cmd w).2, by decide⟩
  case write =>
    have hfields := encodeBus_fields t
    rw [extractLsb'_rw, ht] at hfields
    rw [decode, decodeBus, if_pos ht, encode]
    exact congrArg InstrWord.bus hfields
  case read =>
    have hfields := encodeBus_fields t
    rw [extractLsb'_rw, ht] at hfields
    have hclear := encodeBus_clear_wdata 0#1 (t.extractLsb' 52 4) (t.extractLsb' 32 20) (t.extractLsb' 0 32)
    rw [decode, decodeBus, if_neg (Bool.eq_false_iff.1 ht), encode, ← hclear]
    exact congrArg (fun u => InstrWord.bus (u &&& ~~~0xFFFFFFFF#57)) hfields

/-- Settles O3: the words are concrete. -/
theorem specWordsDecode : Obligations.SpecWordsDecode := by
  unfold Obligations.SpecWordsDecode
  decide

end Sys2Proof.Machine
end

section
/-! PROOFS. Every way an instruction and an engine's step can end, as relations to split on; what taking the next
event from the order leaves alone. -/

namespace Sys2Proof.Machine

/-! ### Instructions -/

/-- Every way an instruction can end, by what it leaves of the state `s` (47_host_commands.md, R131 to R134, R162,
R163, R177). -/
inductive ExecEffect (s : State) : Instr → State → Prop
  | readReturned (region : BitVec 4) (index : BitVec 20) (v : Word) :
      ExecEffect s (.rd region index) (returnData v s)
  | readRefused (region : BitVec 4) (index : BitVec 20) (b : StatusBit)
      (hb : b ∈ [StatusBit.busyViolation, .illegalCmd, .busErr]) :
      ExecEffect s (.rd region index) (returnData 0#32 (raise b s))
  | refused (i : Instr) (b : StatusBit) (hb : b ∈ [StatusBit.busyViolation, .illegalCmd, .busErr]) :
      ExecEffect s i (raise b s)
  | kept (i : Instr) : ExecEffect s i s
  | modStarted (i : Instr) (hidle : s.busy .mod = false) :
      ExecEffect s i (raise .modBusy (idleSequencer s))
  | demStarted (i : Instr) (op : DemOp) (hidle : s.busy .dem = false) :
      ExecEffect s i (raise .demBusy { s with demOp := op })
  | softReset (i : Instr) (hi : i = .softReset ∨ i = .wr 0x0#4 0x01#20 0x0000000F#32) :
      ExecEffect s i (softReset s)
  | stored (index : BitVec 20) (r : Reg) (v : Word) (hindex : index.toNat = r.index)
      (hunlocked : r.lock.holds s = false) : ExecEffect s (.wr 0x0#4 index v) (storeReg r v s)
  | wroteMbyte (index : BitVec 20) (v : Word) (hcap : index.toNat < s.config.capMbyte)
      (hidle : s.busy .mod = false) : ExecEffect s (.wr 0x1#4 index v)
        { s with mbyte := s.mbyte.write index.toNat (byteOfBus v) }
  | wroteDpcm (index : BitVec 20) (v : Word) (hcap : index.toNat < s.config.capDpcm)
      (hidle : s.busy .dem = false) : ExecEffect s (.wr 0x3#4 index v)
        { s with dpcm := s.dpcm.write index.toNat (pcmOfBus v) }
  | emitted (g : Segment) (samples : List ToneSample) : ExecEffect s g.toInstr (emit samples s)
  | reserved (low : BitVec 1) : ExecEffect s (.segReserved low) (faultMod .invalidSymbol s)

/-- A read ends in one of its ways. -/
theorem execEffect_rd (region : BitVec 4) (index : BitVec 20) (s : State) :
    ExecEffect s (.rd region index) (returnData (busRead region index s).1 (busRead region index s).2) := by
  rcases busRead_state region index s with hkept | hbusErr | ⟨_, hbusy⟩
  · rw [hkept]; exact .readReturned ..
  · rw [hbusErr]; exact .readRefused _ _ .busErr (by decide)
  · rw [hbusy]; exact .readRefused _ _ .busyViolation (by decide)

/-- A command ends in one of its ways, run by whichever instruction; SOFT_RESET by those that mean it. -/
theorem execEffect_command (i : Instr) (c : Command) (s : State)
    (hi : c = .softReset → i = .softReset ∨ i = .wr 0x0#4 0x01#20 0x0000000F#32) :
    ExecEffect s i (runCommand c s) := by
  rcases runCommand_cases c s with h | h | ⟨_, hidle, h⟩ | ⟨_, hidle, h⟩ | ⟨_, hidle, h⟩ | ⟨hc, h⟩ | h <;> rw [h]
  · exact .kept i
  · exact .refused i .busyViolation (by decide)
  · exact .modStarted i hidle
  · exact .demStarted i .demod hidle
  · exact .demStarted i .pix hidle
  · exact .softReset i (hi hc)
  · exact .refused i .illegalCmd (by decide)

/-- SOFT_RESET's command word is 0x0000000F alone (R104). -/
theorem eq_of_decodeCommand_eq_softReset {v : Word} (h : decodeCommand v = .softReset) :
    v = 0x0000000F#32 := by
  obtain ⟨_, henc⟩ := wellFormed_and_encode_of_decode_cmd v
  rw [decode, h] at henc
  exact (InstrWord.cmd.inj henc).symm

/-- A write ends in one of its ways. -/
theorem execEffect_wr (region : BitVec 4) (index : BitVec 20) (v : Word) (s : State) :
    ExecEffect s (.wr region index v) (busWrite region index v s) := by
  rcases busWrite_cases region index v s with h | h | ⟨rfl, hindex, h⟩ | ⟨r, rfl, hr, _, _, hl, h⟩ |
    ⟨rfl, hcap, hidle, h⟩ | ⟨rfl, hcap, hidle, h⟩ <;> rw [h]
  · exact .refused _ .busErr (by decide)
  · exact .refused _ .busyViolation (by decide)
  · refine execEffect_command _ _ s fun hc => .inr ?_
    rw [eq_of_decodeCommand_eq_softReset hc, show index = 0x01#20 from BitVec.eq_of_toNat_eq hindex]
  · exact .stored index r v (index_eq_of_ofIndex_eq_some hr).symm hl
  · exact .wroteMbyte index v hcap hidle
  · exact .wroteDpcm index v hcap hidle

/-- A descriptor ends in one of its ways. -/
theorem execEffect_segment (g : Segment) (s : State) : ExecEffect s g.toInstr (runSegment g s) := by
  cases g with
  | sym00 => exact .emitted .sym00 _
  | sym01 => exact .emitted .sym01 _
  | sym10 => exact .emitted .sym10 _
  | sym11 => exact .emitted .sym11 _
  | mlo => exact .emitted .mlo _
  | mhi => exact .emitted .mhi _
  | reserved low => exact .reserved low

/-- Every way an instruction can end. -/
theorem execEffect_of_exec {i : Instr} {s t : State} (h : exec i s = .next t) : ExecEffect s i t := by
  cases i with
  | rd region index => cases h; exact execEffect_rd region index s
  | wr region index v => cases h; exact execEffect_wr region index v s
  | nop => cases h; exact .kept _
  | modStart => cases h; exact execEffect_command _ .modStart s nofun
  | demStart => cases h; exact execEffect_command _ .demStart s nofun
  | pixFmt => cases h; exact execEffect_command _ .pixFmt s nofun
  | softReset => cases h; exact .softReset _ (.inl rfl)
  | illegalCmd zero op => cases h; exact .refused _ .illegalCmd (by decide)
  | sym00 => cases h; exact execEffect_segment .sym00 s
  | sym01 => cases h; exact execEffect_segment .sym01 s
  | sym10 => cases h; exact execEffect_segment .sym10 s
  | sym11 => cases h; exact execEffect_segment .sym11 s
  | mlo => cases h; exact execEffect_segment .mlo s
  | mhi => cases h; exact execEffect_segment .mhi s
  | segReserved low => cases h; exact .reserved low

/-! ### Engines -/

theorem SameModInputs.refl (s : State) : SameModInputs s s := by constructor <;> rfl

theorem SameDemInputs.refl (s : State) : SameDemInputs s s := by constructor <;> rfl

/-- A MOD step writes a result and leaves everything else alone. -/
theorem modComplete_eq_apply {s : State} (hb : s.busy .mod = true) :
    ∃ r : ModResult, r.endsWell s ∧ modComplete s = r.apply s := by
  let := Config.num.field
  let := Config.num.order
  let := Config.num.floor
  obtain ⟨r, hends, heq, _⟩ := modCompleteIn_depends Config.num.numeric (SameModInputs.refl s) hb hb
  exact ⟨r, hends, heq⟩

/-- A DEM step writes a result and leaves everything else alone. -/
theorem demComplete_eq_apply (s : State) :
    ∃ o : DemResult, o.endsWell s ∧ demComplete s = o.apply s := by
  let := Config.num.field
  let := Config.num.order
  obtain ⟨o, hends, heq, _⟩ := demCompleteIn_depends Config.num.numeric (SameDemInputs.refl s)
  exact ⟨o, hends, heq⟩

/-! ### The order of events -/

/-- Fetching happens outside `rst` and uses up fields of the environment only (R64, R340). -/
theorem fetch_frame {s u : State} {w : InstrWord} (h : fetch s = some (w, u)) :
    s.rst = false ∧ ∃ turns script direct tick,
      u = { s with turns := turns, script := script, direct := direct, tick := tick } := by
  obtain ⟨hrst, ⟨_, _, _, rfl⟩ | ⟨_, _, _, _, _, ⟨_, _, rfl⟩ | ⟨_, rfl⟩⟩⟩ := fetch_cases h <;>
    exact ⟨hrst, _, _, _, _, rfl⟩

/-- Taking the next event uses up the given order, or a free choice. -/
theorem nextTurn_frame {s u : State} {x : Turn} (h : nextTurn s = some (x, u)) :
    ∃ turns tick, u = { s with turns := turns, tick := tick } := by
  obtain ⟨_, _, rfl⟩ | ⟨_, _, _, _, rfl⟩ := nextTurn_cases h <;> exact ⟨_, _, rfl⟩

/-- What a predicate must meet to be kept by every step: it does not depend on the environment's order, script and
port, and every instruction and every event keeps it. -/
theorem step_keeps {P : State → Prop}
    (henv : ∀ s turns script direct tick, P s →
      P { s with turns := turns, script := script, direct := direct, tick := tick })
    (hexec : ∀ i s t, s.rst = false → P s → ExecEffect s i t → P t)
    (htake : ∀ x s, P s → P (takeTurn x s))
    {s t : State} (hs : P s) (h : step s = .next t) : P t := by
  rcases step_cases h with ⟨w, u, hfetch, hex⟩ | ⟨_, x, u, hnext, rfl⟩
  · obtain ⟨hrst, turns, script, direct, tick, rfl⟩ := fetch_frame hfetch
    refine hexec _ _ _ ?_ (henv s turns script direct tick hs) (execEffect_of_exec hex)
    exact hrst
  · obtain ⟨turns, tick, rfl⟩ := nextTurn_frame hnext
    exact htake x _ (henv s turns s.script s.direct tick hs)

end Sys2Proof.Machine
end

section
/-! PROOFS. The invariant: it holds right after reset, and every step keeps it. No step changes the parameters. -/

namespace Sys2Proof.Machine

/-! ### Words with reserved bits -/

/-- Keeping some bits of a word sets no reserved one. -/
theorem and_and_eq_zero {a m : Word} (h : a &&& m = 0#32) (x : Word) : a &&& x &&& m = 0#32 := by
  rw [BitVec.and_assoc, BitVec.and_comm x, ← BitVec.and_assoc, h, BitVec.zero_and]

/-- Setting bits that are not reserved sets no reserved one. -/
theorem or_and_eq_zero {a x m : Word} (ha : a &&& m = 0#32) (hx : x &&& m = 0#32) :
    (a ||| x) &&& m = 0#32 := by
  rw [BitVec.and_or_distrib_right, ha, hx, BitVec.or_zero]

/-- No field of STATUS is reserved (R25). -/
theorem StatusBit.mask_and_reserved (b : StatusBit) : b.mask &&& ~~~0x1FFF#32 = 0#32 := by
  cases b <;> decide

/-! ### Reset -/

/-- The registers of reset over the memories that there are. -/
theorem State.Inv.resetRegisters {s : State} (h : s.Inv) : (resetRegisters s).Inv :=
  { h with
    statusReserved := BitVec.zero_and
    ctrlReserved := BitVec.zero_and
    irqEnReserved := BitVec.zero_and
    modErrCode := List.mem_cons_self
    demErrCode := List.mem_cons_self
    modNsampFits := Nat.zero_le _
    demNbitsBytes := rfl
    demNbitsFits := by simp
    demNsymAgrees := ⟨Nat.zero_le _, Nat.zero_le _⟩
    pixCountFits := Nat.zero_le _
    heldInReset := fun _ => rfl }

/-- What `rst` leaves: the registers of reset and no listed cell. -/
theorem State.Inv.assertReset {s : State} (h : s.Inv) : (assertReset s).Inv :=
  { h.resetRegisters with
    mbyteWf := unspecified_wf _ _
    mpcmWf := unspecified_wf _ _
    dpcmWf := unspecified_wf _ _
    dbyteWf := unspecified_wf _ _
    mbyteWithin := unspecified_within _ _ _
    mpcmWithin := unspecified_within _ _ _
    dpcmWithin := unspecified_within _ _ _
    dbyteWithin := unspecified_within _ _ _
    heldInReset := fun _ => rfl }

/-- A memory that is kept or becomes unspecified keeps its form and its capacity (R274). -/
theorem ite_unspecified_wf_and_within {w gen cap : Nat} {m : Memory w} (hwf : m.wf) (hin : m.within cap)
    (b : Bool) :
    (if b then Memory.unspecified w gen else m).wf ∧ (if b then Memory.unspecified w gen else m).within cap := by
  cases b with
  | true => exact ⟨unspecified_wf w gen, unspecified_within w gen cap⟩
  | false => exact ⟨hwf, hin⟩

/-- Settles O8: every register is 0 and every memory lists no cell. -/
theorem resetStateMeetsTheInvariant : Obligations.ResetStateMeetsTheInvariant := by
  unfold Obligations.ResetStateMeetsTheInvariant
  obtain ⟨hmbyte, hmpcm, hdpcm, hdbyte⟩ := reset_memories_wf
  exact
    { config := by decide
      statusReserved := by decide
      ctrlReserved := by decide
      irqEnReserved := by decide
      mbyteWf := hmbyte
      mpcmWf := hmpcm
      dpcmWf := hdpcm
      dbyteWf := hdbyte
      mbyteWithin := unspecified_within 8 0 _
      mpcmWithin := unspecified_within 16 1 _
      dpcmWithin := unspecified_within 16 2 _
      dbyteWithin := unspecified_within 8 3 _
      modErrCode := by decide
      demErrCode := by decide
      modNsampFits := Nat.zero_le _
      demNbitsBytes := by decide
      demNbitsFits := Nat.zero_le _
      demNsymAgrees := by decide
      pixCountFits := Nat.zero_le _
      heldInReset := nofun }

/-! ### The operations -/

section Inv

variable {s : State} (h : s.Inv)
include h

/-- The environment's fields are none of the invariant's. -/
theorem State.Inv.environment (turns : List Turn) (script : List (BitVec 57)) (direct : Option Direct)
    (tick : Nat) :
    ({ s with turns := turns, script := script, direct := direct, tick := tick } : State).Inv :=
  { h with
    heldInReset := fun hr => congrArg (fun u : State =>
      { u with turns := turns, script := script, direct := direct, tick := tick }) (h.heldInReset hr) }

/-- `rst` falls. -/
theorem State.Inv.releaseReset : (releaseReset s).Inv := { h with heldInReset := nofun }

variable (hrst : s.rst = false)
include hrst

omit h in
/-- Outside `rst` nothing is held in reset. -/
theorem held_of_rst_eq_false {P : Prop} : s.rst = true → P := fun hr => by simp [hrst] at hr

/-- STATUS takes a word whose reserved bits are 0. -/
theorem State.Inv.withStatus {w : Word} (hw : w &&& ~~~0x1FFF#32 = 0#32) : ({ s with status := w } : State).Inv :=
  { h with statusReserved := hw, heldInReset := held_of_rst_eq_false hrst }

theorem State.Inv.raise (b : StatusBit) : (raise b s).Inv :=
  h.withStatus hrst (or_and_eq_zero h.statusReserved b.mask_and_reserved)

theorem State.Inv.lower (b : StatusBit) : (lower b s).Inv :=
  h.withStatus hrst (and_and_eq_zero h.statusReserved _)

theorem State.Inv.returnData (v : Word) : (returnData v s).Inv :=
  { h with heldInReset := held_of_rst_eq_false hrst }

theorem State.Inv.idleSequencer : (idleSequencer s).Inv :=
  { h with heldInReset := held_of_rst_eq_false hrst }

theorem State.Inv.emit (samples : List ToneSample) : (emit samples s).Inv :=
  { h with heldInReset := held_of_rst_eq_false hrst }

theorem State.Inv.withDemOp (op : DemOp) : ({ s with demOp := op } : State).Inv :=
  { h with heldInReset := held_of_rst_eq_false hrst }

/-- A cell of MBYTE inside the capacity takes a value. -/
theorem State.Inv.writeMbyte {i : Nat} (hi : i < s.config.capMbyte) (v : Byte) :
    ({ s with mbyte := s.mbyte.write i v } : State).Inv :=
  { h with
    mbyteWf := write_wf _ _ _ h.mbyteWf
    mbyteWithin := store_within _ _ _ _ h.mbyteWithin (.inr hi)
    heldInReset := held_of_rst_eq_false hrst }

/-- A cell of DPCM inside the capacity takes a value. -/
theorem State.Inv.writeDpcm {i : Nat} (hi : i < s.config.capDpcm) (v : Pcm) :
    ({ s with dpcm := s.dpcm.write i v } : State).Inv :=
  { h with
    dpcmWf := write_wf _ _ _ h.dpcmWf
    dpcmWithin := store_within _ _ _ _ h.dpcmWithin (.inr hi)
    heldInReset := held_of_rst_eq_false hrst }

/-- A register's stored value: CTRL and IRQ_EN take their implemented bits, STATUS loses some (R112). -/
theorem State.Inv.storeReg (r : Reg) (v : Word) : (storeReg r v s).Inv := by
  cases r with
  | id | cmd | modErr | demErr | modNsamp | demNbits | demNsym | demOffset | pixCount | sps
  | markerSamples => exact h
  | sampleRate | baudRate | carrierFreq | markerFreq | markerDurUs | frameH | frameW | toneFreq0
  | toneFreq1 | toneFreq2 | toneFreq3 | modNbits | demNsamp =>
    exact { h with heldInReset := held_of_rst_eq_false hrst }
  | status => exact h.withStatus hrst (and_and_eq_zero h.statusReserved _)
  | ctrl =>
    exact
      { h with
        ctrlReserved := by rw [Machine.storeReg, BitVec.and_assoc]; exact BitVec.and_zero
        heldInReset := held_of_rst_eq_false hrst }
  | irqEn =>
    exact
      { h with
        irqEnReserved := by rw [Machine.storeReg, BitVec.and_assoc]; exact BitVec.and_zero
        heldInReset := held_of_rst_eq_false hrst }

/-- SOFT_RESET: the registers of reset over memories that are kept or unspecified. -/
theorem State.Inv.softReset : (softReset s).Inv :=
  have hmpcm := ite_unspecified_wf_and_within (gen := s.nextGen) h.mpcmWf h.mpcmWithin (s.busy .mod)
  have hdbyte := ite_unspecified_wf_and_within (gen := s.nextGen + 1) h.dbyteWf h.dbyteWithin (s.busy .dem)
  { h.resetRegisters with
    mpcmWf := hmpcm.1
    mpcmWithin := hmpcm.2
    dbyteWf := hdbyte.1
    dbyteWithin := hdbyte.2
    heldInReset := held_of_rst_eq_false hrst }

/-! ### The engines' ends -/

/-- A modulation's results, each in its range. -/
theorem State.Inv.withModResults {mpcm : Memory 16} {nsamp err : Word} (hwf : mpcm.wf)
    (hin : mpcm.within s.config.capMpcm) (hnsamp : nsamp.toNat ≤ s.config.capMpcm)
    (herr : err.toNat ∈ [0, 1, 3, 4, 5, 6]) :
    ({ s with mpcm := mpcm, modNsamp := nsamp, modErr := err } : State).Inv :=
  { h with
    mpcmWf := hwf
    mpcmWithin := hin
    modNsampFits := hnsamp
    modErrCode := herr
    heldInReset := held_of_rst_eq_false hrst }

/-- A modulation's fault: one of MOD's codes, and no frame (R300). -/
theorem State.Inv.faultMod {k : ErrKind} (hk : k.code.toNat ∈ [0, 1, 3, 4, 5, 6]) : (faultMod k s).Inv :=
  have hres := h.withModResults hrst h.mpcmWf h.mpcmWithin (nsamp := 0#32) (Nat.zero_le _) hk
  ((hres.idleSequencer hrst).lower hrst _).raise hrst _

/-- A modulation's success: a frame inside the capacity (R185). -/
theorem State.Inv.finishMod {frame : List Pcm} {total : Nat} (htotal : total ≤ s.config.capMpcm)
    (hlen : frame.length = total) : (finishMod frame total s).Inv := by
  have hin := store_within s.mpcm 0 s.config.capMpcm frame h.mpcmWithin (.inr (by omega))
  have hres := h.withModResults hrst (store_wf _ _ _ h.mpcmWf) hin (nsamp := BitVec.ofNat 32 total) (err := 0#32)
    ((Nat.mod_le _ _).trans htotal) List.mem_cons_self
  exact ((hres.idleSequencer hrst).lower hrst _).raise hrst _

/-- A DEM operation's results, each in its range. -/
theorem State.Inv.withDemResults {dbyte : Memory 8} {err pix nbits nsym offset : Word} (hwf : dbyte.wf)
    (hin : dbyte.within s.config.capDbyte) (herr : err.toNat ∈ [0, 2, 3, 4, 5])
    (hpix : pix.toNat ≤ s.config.capDbyte) (hbytes : nbits.toNat % 8 = 0)
    (hfits : nbits.toNat / 8 ≤ s.config.capDbyte)
    (hsym : nbits.toNat ≤ 2 * nsym.toNat ∧ 2 * nsym.toNat ≤ nbits.toNat + 6) :
    ({ s with
      dbyte := dbyte, demErr := err, pixCount := pix, demNbits := nbits, demNsym := nsym
      demOffset := offset } : State).Inv :=
  { h with
    dbyteWf := hwf
    dbyteWithin := hin
    demErrCode := herr
    pixCountFits := hpix
    demNbitsBytes := hbytes
    demNbitsFits := hfits
    demNsymAgrees := hsym
    heldInReset := held_of_rst_eq_false hrst }

/-- A DEM operation's fault: one of DEM's codes, no pixels, and the demodulation's results zeroed or kept (R301). -/
theorem State.Inv.faultDem {k : ErrKind} (hk : k.code.toNat ∈ [0, 2, 3, 4, 5]) : (faultDem k s).Inv := by
  have hres := h.withDemResults hrst (pix := 0#32) (offset := s.demOffset) h.dbyteWf h.dbyteWithin hk
    (Nat.zero_le _) h.demNbitsBytes h.demNbitsFits h.demNsymAgrees
  have hzero := h.withDemResults hrst (pix := 0#32) (offset := 0#32) h.dbyteWf h.dbyteWithin hk
    (Nat.zero_le _) (nbits := 0#32) rfl (Nat.zero_le _) (nsym := 0#32) ⟨Nat.zero_le _, Nat.zero_le _⟩
  unfold Machine.faultDem
  cases hop : s.demOp with
  | demod =>
    dsimp only
    exact hop ▸ (hzero.lower hrst _).raise hrst _
  | pix =>
    dsimp only
    exact hop ▸ (hres.lower hrst _).raise hrst _

/-- A demodulation's success: whole bytes of four codes each, inside the capacity (R228). -/
theorem State.Inv.finishDemod {bytes : List Byte} {nwin nbytes offset : Nat}
    (hlen : bytes.length = nbytes) (hbytes : nbytes = nwin / 4) (hcap : nbytes ≤ s.config.capDbyte)
    (hnwin : nwin < 2 ^ 31) : (finishDemod bytes nwin nbytes offset s).Inv := by
  have hnsym : (BitVec.ofNat 32 nwin).toNat = nwin := Nat.mod_eq_of_lt (by omega)
  have hnbits : (BitVec.ofNat 32 (8 * nbytes)).toNat = 8 * nbytes := Nat.mod_eq_of_lt (by omega)
  have hin := store_within s.dbyte 0 s.config.capDbyte bytes h.dbyteWithin (.inr (by omega))
  have hres := h.withDemResults hrst (store_wf _ _ _ h.dbyteWf) hin (err := 0#32) List.mem_cons_self
    (pix := 0#32) (Nat.zero_le _) (nbits := BitVec.ofNat 32 (8 * nbytes)) (by omega) (by omega)
    (nsym := BitVec.ofNat 32 nwin) (by omega) (offset := BitVec.ofNat 32 offset)
  exact (hres.lower hrst _).raise hrst _

/-- A pixel formatting: the padding fills DBYTE up to the number of pixels, which the capacity holds (R252). -/
theorem State.Inv.formatPixels : (formatPixels s).Inv := by
  unfold Machine.formatPixels
  by_cases hcap : s.config.capDbyte < pixelCount s
  · rw [if_pos hcap]
    exact h.faultDem hrst (by decide)
  · have hin := store_within s.dbyte (recoveredBytes s) s.config.capDbyte
      (List.replicate (pixelCount s - recoveredBytes s) 0#8) h.dbyteWithin
      (by rw [List.replicate_eq_nil_iff, List.length_replicate]; omega)
    have hres := h.withDemResults hrst (store_wf _ _ _ h.dbyteWf) hin (err := 0#32) List.mem_cons_self
      (pix := BitVec.ofNat 32 (pixelCount s)) ((Nat.mod_le _ _).trans (not_lt.1 hcap)) (offset := s.demOffset)
      h.demNbitsBytes h.demNbitsFits h.demNsymAgrees
    rw [if_neg hcap]
    dsimp only
    split
    · exact (hres.lower hrst _).raise hrst _
    · exact ((hres.raise hrst _).lower hrst _).raise hrst _

/-! ### Instructions and engines -/

/-- Every instruction keeps the invariant. -/
theorem State.Inv.execEffect {i : Instr} {t : State} (ht : ExecEffect s i t) : t.Inv := by
  cases ht with
  | readReturned region index v => exact h.returnData hrst v
  | readRefused region index b hb => exact (h.raise hrst b).returnData hrst _
  | refused i b hb => exact h.raise hrst b
  | kept i => exact h
  | modStarted i hidle => exact (h.idleSequencer hrst).raise hrst _
  | demStarted i op hidle => exact (h.withDemOp hrst op).raise hrst _
  | softReset i hi => exact h.softReset hrst
  | stored index r v hindex hunlocked => exact h.storeReg hrst r v
  | wroteMbyte index v hcap hidle => exact h.writeMbyte hrst hcap _
  | wroteDpcm index v hcap hidle => exact h.writeDpcm hrst hcap _
  | emitted g samples => exact h.emit hrst samples
  | reserved low => exact h.faultMod hrst (by decide)

/-- A modulation keeps the invariant. -/
theorem State.Inv.modComplete (hb : s.busy .mod = true) : (modComplete s).Inv := by
  let := Config.num.field
  let := Config.num.order
  let := Config.num.floor
  rcases modCompleteIn_cases Config.num.numeric s hb with ⟨k, hk, heq⟩ | ⟨hfits, heq⟩ <;>
    rw [Machine.modComplete, heq]
  · have hcodes : ∀ k ∈ [ErrKind.invalidPayloadLength, .configInvalid, .capacity, .zeroPeak],
        k.code.toNat ∈ [0, 1, 3, 4, 5, 6] := by decide
    exact h.faultMod hrst (hcodes k hk)
  · exact h.finishMod hrst hfits (by simp)

omit h hrst in
/-- A demodulation has no more windows than samples. -/
theorem windowCount_le (offset : Nat) : windowCount s offset ≤ s.demNsamp.toNat := by
  have hspan := spanOf_eq s offset
  exact (Nat.div_le_self _ _).trans (by omega)

/-- A DEM operation keeps the invariant. -/
theorem State.Inv.demComplete : (demComplete s).Inv := by
  let := Config.num.field
  let := Config.num.order
  unfold Machine.demComplete demCompleteIn
  cases s.demOp with
  | pix => exact h.formatPixels hrst
  | demod =>
    have hstart : ∀ w : Word, w &&& ~~~0x1C0#32 = 0#32 → (withFlags w (invalidatePixels s)).Inv := by
      intro w hw
      have hpix : (invalidatePixels s).Inv :=
        { h with pixCountFits := Nat.zero_le _, heldInReset := held_of_rst_eq_false hrst }
      have hmask : (~~~0x1FFF#32 : Word) = ~~~0x1C0#32 &&& ~~~0x1FFF#32 := by decide
      refine hpix.withStatus hrst (or_and_eq_zero hpix.statusReserved ?_)
      rw [hmask, ← BitVec.and_assoc, hw, BitVec.zero_and]
    obtain ⟨w, hw, ⟨k, hk, heq⟩ | ⟨offset, hcap, hL, heq⟩⟩ := demodulateIn_cases Config.num.numeric s <;>
      dsimp only <;> rw [heq]
    · have hcodes : ∀ k ∈ [ErrKind.configInvalid, .capacity, .zeroPeak, .markerNotFound],
          k.code.toNat ∈ [0, 2, 3, 4, 5] := by decide
      exact (hstart w hw).faultDem hrst (hcodes k hk)
    · obtain ⟨_, _, ⟨_, hdpcm⟩, _⟩ := h.config
      have hwin := windowCount_le (s := s) offset
      exact (hstart w hw).finishDemod hrst (length_detectedBytes _ _ _) (byteCount_eq s offset) hcap (by omega)

omit hrst in
/-- Every event that runs no instruction keeps the invariant. -/
theorem State.Inv.takeTurn (x : Turn) : (takeTurn x s).Inv := by
  rcases takeTurn_cases x s with heq | ⟨_, hrst, hb, heq⟩ | ⟨_, hrst, _, heq⟩ | ⟨_, heq⟩ | ⟨_, heq⟩ <;> rw [heq]
  · exact h
  · exact h.modComplete hrst hb
  · exact h.demComplete hrst
  · exact h.assertReset
  · exact h.releaseReset

end Inv

/-- Settles O9: the invariant does not see the environment, and every instruction and every event keeps it. -/
theorem stepKeepsTheInvariant : Obligations.StepKeepsTheInvariant := by
  unfold Obligations.StepKeepsTheInvariant
  intro s t hs hstep
  exact step_keeps (P := State.Inv) (fun _ turns script direct tick h => h.environment turns script direct tick)
    (fun _ _ _ hrst h ht => h.execEffect hrst ht) (fun x _ h => h.takeTurn x) hs hstep

/-! ### Parameters -/

/-- No instruction changes the parameters (R20). -/
theorem config_of_execEffect {s t : State} {i : Instr} (ht : ExecEffect s i t) : t.config = s.config := by
  cases ht with
  | stored index r v hindex hunlocked => cases r <;> rfl
  | _ => rfl

/-- No event changes the parameters (R20). -/
theorem config_takeTurn (x : Turn) (s : State) : (takeTurn x s).config = s.config := by
  rcases takeTurn_cases x s with heq | ⟨_, _, hb, heq⟩ | ⟨_, _, _, heq⟩ | ⟨_, heq⟩ | ⟨_, heq⟩ <;> rw [heq]
  · obtain ⟨r, _, hr⟩ := modComplete_eq_apply hb
    rw [hr, ModResult.apply]
  · obtain ⟨o, _, ho⟩ := demComplete_eq_apply s
    rw [ho, DemResult.apply]
  · rfl
  · rfl

/-- Settles O10: neither instructions nor events change the parameters. -/
theorem stepKeepsTheParameters : Obligations.StepKeepsTheParameters := by
  unfold Obligations.StepKeepsTheParameters
  intro s t hstep
  exact step_keeps (P := fun u => u.config = s.config) (fun _ _ _ _ _ h => h)
    (fun _ _ _ _ h ht => (config_of_execEffect ht).trans h) (fun x u h => (config_takeTurn x u).trans h) rfl hstep

end Sys2Proof.Machine
end

section
/-! PROOFS. Steps and runs: what a sticky flag survives, what the host leaves to a busy engine, the end of a run,
the order of events, `rst`. -/

namespace Sys2Proof.Machine

/-! ### Bits of STATUS -/

/-- Setting bits keeps the set ones. -/
theorem getLsbD_or_of_left {a : Word} {i : Nat} (ha : a.getLsbD i = true) (x : Word) :
    (a ||| x).getLsbD i = true := by
  rw [BitVec.getLsbD_or, ha, Bool.true_or]

/-- Clearing bits keeps the set ones that are none of them. -/
theorem getLsbD_and_not_of_not_mem {a m : Word} {i : Nat} (ha : a.getLsbD i = true) (hm : m.getLsbD i = false) :
    (a &&& ~~~m).getLsbD i = true := by
  have hi : i < 32 := BitVec.lt_of_getLsbD ha
  rw [BitVec.getLsbD_and, BitVec.getLsbD_not, ha, hm, decide_eq_true hi]
  rfl

/-- A word with no bit outside a mask has a 0 where the mask has one. -/
theorem getLsbD_eq_false_of_and_not {a m : Word} (h : a &&& ~~~m = 0#32) {i : Nat} (hm : m.getLsbD i = false) :
    a.getLsbD i = false := by
  by_contra ha
  have hbit := getLsbD_and_not_of_not_mem (Bool.eq_true_of_not_eq_false ha) hm
  rw [h, BitVec.getLsbD_zero] at hbit
  cases hbit

/-- The BUSY masks hold no sticky bit (R25). -/
theorem getLsbD_busyMask (e : Engine) {b : Nat} (hb : 2 ≤ b) : e.busyBit.mask.getLsbD b = false := by
  rw [StatusBit.getLsbD_mask, decide_eq_false_iff_not]
  cases e <;> simp only [Engine.busyBit, StatusBit.index] <;> omega

/-- An engine's completion sets flags and clears its BUSY field: a sticky flag stays. -/
theorem sticky_completion {a : Word} {b : Nat} (hb : 2 ≤ b) (ha : a.getLsbD b = true) (e : Engine) (flag : Word) :
    (a &&& ~~~e.busyBit.mask ||| flag).getLsbD b = true :=
  getLsbD_or_of_left (getLsbD_and_not_of_not_mem ha (getLsbD_busyMask e hb)) flag

/-! ### Sticky flags -/

/-- The instructions that clear flag `b`: SOFT_RESET, its command word, and a write of 1 to the flag (R263, R274). -/
def Instr.clears (i : Instr) (b : Nat) : Prop :=
  i = .softReset ∨ i = .wr 0x0#4 0x01#20 0x0000000F#32 ∨
    ∃ v : Word, i = .wr 0x0#4 0x03#20 v ∧ v.getLsbD b = true

/-- An instruction that does not clear a set sticky flag keeps it. -/
theorem sticky_of_execEffect {i : Instr} {s t : State} (ht : ExecEffect s i t) {b : Nat} (hb : 2 ≤ b)
    (hset : s.status.getLsbD b = true) : t.status.getLsbD b = true ∨ Instr.clears i b := by
  cases ht with
  | readReturned | kept | wroteMbyte | wroteDpcm | emitted => exact .inl hset
  | readRefused | refused | modStarted | demStarted => exact .inl (getLsbD_or_of_left hset _)
  | reserved => exact .inl (sticky_completion hb hset .mod _)
  | softReset i hi => exact .inr (hi.imp_right .inl)
  | stored index r v hindex hunlocked =>
    cases r with
    | status =>
      cases hv : v.getLsbD b with
      | true => exact .inr (.inr (.inr ⟨v, by rw [show index = 0x03#20 from BitVec.eq_of_toNat_eq hindex], hv⟩))
      | false =>
        have hmask : (v &&& stickyMask).getLsbD b = false := by rw [BitVec.getLsbD_and, hv, Bool.false_and]
        exact .inl (getLsbD_and_not_of_not_mem hset hmask)
    | _ => exact .inl hset

/-- An event that runs no instruction keeps a set sticky flag, but for `rst`. -/
theorem sticky_takeTurn {x : Turn} {s : State} {b : Nat} (hb : 2 ≤ b) (hset : s.status.getLsbD b = true) :
    (takeTurn x s).status.getLsbD b = true ∨ x = .rstHigh := by
  rcases takeTurn_cases x s with h | ⟨_, _, hbusy, h⟩ | ⟨_, _, _, h⟩ | ⟨hx, _⟩ | ⟨_, h⟩
  · exact .inl (by rw [h]; exact hset)
  · obtain ⟨r, _, hr⟩ := modComplete_eq_apply hbusy
    rw [h, hr]
    exact .inl (sticky_completion hb hset .mod _)
  · obtain ⟨o, _, ho⟩ := demComplete_eq_apply s
    rw [h, ho]
    exact .inl (sticky_completion hb (getLsbD_or_of_left hset _) .dem _)
  · exact .inr hx
  · exact .inl (by rw [h]; exact hset)

/-- Settles O54: neither fetching nor the order of events touches STATUS, and the instructions and events that
clear a flag are the listed ones. -/
theorem stickyFlagsAreOnlyClearedByTheHost : Obligations.StickyFlagsAreOnlyClearedByTheHost := by
  unfold Obligations.StickyFlagsAreOnlyClearedByTheHost
  intro s t b hb _ hstep hset
  rcases step_cases hstep with ⟨w, u, hfetch, hex⟩ | ⟨hfetch, x, u, hnext, rfl⟩
  · have hu : u.status = s.status := by obtain ⟨_, _, _, _, _, rfl⟩ := fetch_frame hfetch; rfl
    rcases sticky_of_execEffect (execEffect_of_exec hex) hb (hu ▸ hset) with hkept | hclears
    · exact .inl hkept
    · exact .inr (.inl ⟨w, u, hfetch, hclears⟩)
  · have hu : u.status = s.status := by obtain ⟨_, _, rfl⟩ := nextTurn_frame hnext; rfl
    rcases sticky_takeTurn (x := x) hb (hu ▸ hset) with hkept | rfl
    · exact .inl hkept
    · exact .inr (.inr ⟨hfetch, u, hnext⟩)

/-! ### What the host leaves to a busy engine -/

section HostLeaves

variable {i : Instr} {s t : State} (ht : ExecEffect s i t)
  (hsoft : ¬(i = .softReset ∨ i = .wr 0x0#4 0x01#20 0x0000000F#32))
include ht hsoft

/-- While MOD is busy, no instruction but SOFT_RESET and a reserved descriptor changes what MOD reads, or makes it
idle (R90). -/
theorem sameModInputs_of_execEffect (hseg : ∀ low, i ≠ .segReserved low) (hb : s.busy .mod = true) :
    SameModInputs s t ∧ t.busy .mod = true := by
  cases ht with
  | readReturned | kept | wroteDpcm | emitted => exact ⟨by constructor <;> rfl, hb⟩
  | readRefused | refused | demStarted => exact ⟨by constructor <;> rfl, getLsbD_or_of_left hb _⟩
  | modStarted _ hidle | wroteMbyte _ _ _ hidle => simp [hb] at hidle
  | softReset _ hi => exact absurd hi hsoft
  | reserved low => exact absurd rfl (hseg low)
  | stored index r v hindex hunlocked =>
    have hany : s.anyBusy = true := by rw [State.anyBusy, hb, Bool.true_or]
    cases r with
    | status => exact ⟨by constructor <;> rfl, (busy_writeOneToClear v .mod s).trans hb⟩
    | ctrl | sampleRate | baudRate | carrierFreq | markerFreq | markerDurUs | frameH | frameW | toneFreq0
    | toneFreq1 | toneFreq2 | toneFreq3 => exact absurd (hany.symm.trans hunlocked) (by decide)
    | modNbits => exact absurd (hb.symm.trans hunlocked) (by decide)
    | _ => exact ⟨by constructor <;> rfl, hb⟩

/-- While DEM is busy, no instruction but SOFT_RESET changes what DEM reads, or makes it idle (R90). -/
theorem sameDemInputs_of_execEffect (hb : s.busy .dem = true) : SameDemInputs s t ∧ t.busy .dem = true := by
  cases ht with
  | readReturned | kept | wroteMbyte | emitted => exact ⟨by constructor <;> rfl, hb⟩
  | readRefused | refused | modStarted => exact ⟨by constructor <;> rfl, getLsbD_or_of_left hb _⟩
  | demStarted _ _ hidle | wroteDpcm _ _ _ hidle => simp [hb] at hidle
  | softReset _ hi => exact absurd hi hsoft
  | reserved =>
    exact ⟨by constructor <;> rfl, getLsbD_or_of_left (getLsbD_and_not_of_not_mem hb (by decide)) _⟩
  | stored index r v hindex hunlocked =>
    have hany : s.anyBusy = true := by rw [State.anyBusy, hb, Bool.or_true]
    cases r with
    | status => exact ⟨by constructor <;> rfl, (busy_writeOneToClear v .dem s).trans hb⟩
    | ctrl | sampleRate | baudRate | carrierFreq | markerFreq | markerDurUs | frameH | frameW | toneFreq0
    | toneFreq1 | toneFreq2 | toneFreq3 => exact absurd (hany.symm.trans hunlocked) (by decide)
    | demNsamp => exact absurd (hb.symm.trans hunlocked) (by decide)
    | _ => exact ⟨by constructor <;> rfl, hb⟩

end HostLeaves

/-- The hardware's MOD step gives states that agree in its inputs one result. -/
theorem modComplete_depends {s t : State} (h : SameModInputs s t) (hb : s.busy .mod = true)
    (hb' : t.busy .mod = true) :
    ∃ r : ModResult, r.endsWell s ∧ modComplete s = r.apply s ∧ modComplete t = r.apply t := by
  let := Config.num.field
  let := Config.num.order
  let := Config.num.floor
  exact modCompleteIn_depends Config.num.numeric h hb hb'

/-- The hardware's DEM step gives states that agree in its inputs one result. -/
theorem demComplete_depends {s t : State} (h : SameDemInputs s t) :
    ∃ o : DemResult, o.endsWell s ∧ demComplete s = o.apply s ∧ demComplete t = o.apply t := by
  let := Config.num.field
  let := Config.num.order
  exact demCompleteIn_depends Config.num.numeric h

/-- Settles O24: a bus transaction is no SOFT_RESET and no descriptor, so it leaves a busy engine's inputs, and the
result depends on these alone. -/
theorem hostCannotChangeABusyEnginesResult : Obligations.HostCannotChangeABusyEnginesResult := by
  unfold Obligations.HostCannotChangeABusyEnginesResult
  intro s t i hi hex
  have ht := execEffect_of_exec hex
  have hsoft : ¬(i = .softReset ∨ i = .wr 0x0#4 0x01#20 0x0000000F#32) := by
    rcases hi with ⟨region, index, rfl⟩ | ⟨region, index, v, rfl, hne⟩
    · simp
    · simpa using hne
  have hseg : ∀ low, i ≠ .segReserved low := by
    rcases hi with ⟨region, index, rfl⟩ | ⟨region, index, v, rfl, _⟩ <;> exact nofun
  refine ⟨fun hb => ?mod, fun hb => ?dem⟩
  case mod =>
    obtain ⟨hsame, hb'⟩ := sameModInputs_of_execEffect ht hsoft hseg hb
    obtain ⟨r, _, hs, ht⟩ := modComplete_depends hsame hb hb'
    rw [hs, ht]
    exact ⟨hb', rfl, rfl, rfl⟩
  case dem =>
    obtain ⟨hsame, hb'⟩ := sameDemInputs_of_execEffect ht hsoft hb
    obtain ⟨o, _, hs, ht⟩ := demComplete_depends hsame
    rw [hs, ht]
    exact ⟨hb', rfl, rfl, rfl, rfl, rfl, rfl⟩

end Sys2Proof.Machine
end

section
/-! PROOFS. Whose step is next: the free choice, the fetched instruction, an engine's completion, `rst`, and the end
of a run (00_scope.md section 6, 70_reset_and_hazards.md). -/

namespace Sys2Proof.Machine

/-! ### The next event -/

/-- Nothing is chosen exactly where no agent has a step (R360). -/
theorem freeChoice_eq_none_iff {s : State} : freeChoice s = none ↔ ∀ a, enabled s a = false := by
  refine ⟨fun h a => freeChoice_eq_none h a, fun h => ?_⟩
  rw [Option.eq_none_iff_forall_not_mem]
  intro a ha
  have hen := freeChoice_enabled ha
  rw [h a] at hen
  cases hen

/-- Settles O58: an agent can move exactly where it is enabled, and the free value's agent is asked first. -/
theorem freeChoiceNamesAnAgentThatCanMove : Obligations.FreeChoiceNamesAnAgentThatCanMove := by
  unfold Obligations.FreeChoiceNamesAnAgentThatCanMove
  intro s moves
  have hmoves : ∀ a, moves a ↔ enabled s a = true
    | .host => (enabled_iff s .host).symm
    | .mod => (enabled_iff s .mod).symm
    | .dem => (enabled_iff s .dem).symm
  refine ⟨fun a ha => (hmoves a).2 (freeChoice_enabled ha), ?none, fun h => ?free⟩
  case none => simp only [freeChoice_eq_none_iff, hmoves, Bool.not_eq_true]
  case free => rw [freeChoice, if_pos ((hmoves _).1 h)]

/-- No event is left exactly where none is given and no agent has a step (R362). -/
theorem nextTurn_eq_none_iff {s : State} :
    nextTurn s = none ↔ s.turns = [] ∧ ∀ a, enabled s a = false := by
  rw [← freeChoice_eq_none_iff, nextTurn]
  cases s.turns <;> simp

/-- While `rst` is asserted nothing is fetched (R64). -/
theorem fetch_of_rst {s : State} (hrst : s.rst = true) : fetch s = none := by rw [fetch, if_pos hrst]

/-- A word on the direct port is fetched before anything else. -/
theorem fetch_of_direct {s : State} {d : Direct} (hrst : s.rst = false) (hd : s.direct = some d) :
    fetch s = some (d.word, { s with direct := none }) := by
  simp [fetch, hrst, hd]

/-- With the port empty, the host's turn fetches the next transaction. -/
theorem fetch_of_hostTurn {s u : State} {t : BitVec 57} {rest : List (BitVec 57)} (hrst : s.rst = false)
    (hd : s.direct = none) (hn : nextTurn s = some (.agent .host, u)) (hs : u.script = t :: rest) :
    fetch s = some (.bus t, { u with script := rest }) := by
  simp [fetch, hrst, hd, hn, hs]

/-- With the port empty, an event that is not the host's turn fetches nothing. -/
theorem fetch_of_otherTurn {s u : State} {x : Turn} (hd : s.direct = none) (hn : nextTurn s = some (x, u))
    (hx : x ≠ .agent .host) : fetch s = none := by
  rw [fetch, hd, hn]
  split
  · rfl
  · cases x with
    | agent a =>
      cases a with
      | host => exact absurd rfl hx
      | mod | dem => rfl
    | rstHigh | rstLow => rfl

/-- With the port empty and no event left, nothing is fetched. -/
theorem fetch_of_nextTurn_eq_none {s : State} (hd : s.direct = none) (hn : nextTurn s = none) :
    fetch s = none := by
  rw [fetch, hd, hn]
  split <;> rfl

/-- A given event is the next one. -/
theorem nextTurn_of_turns {s : State} {x : Turn} {later : List Turn} (ht : s.turns = x :: later) :
    nextTurn s = some (x, { s with turns := later }) := by
  rw [nextTurn, ht]

/-- Where no event is given, the free choice is the next one. -/
theorem nextTurn_of_freeChoice {s : State} {a : Agent} (ht : s.turns = []) (hc : freeChoice s = some a) :
    nextTurn s = some (.agent a, { s with tick := s.tick + 1 }) := by
  rw [nextTurn, ht, hc, Option.map_some]

/-! ### One step -/

/-- A fetched word's step is its instruction's meaning. -/
theorem step_of_fetch {s u : State} {w : InstrWord} (hf : fetch s = some (w, u)) :
    step s = exec (decode w) u := by
  rw [step, hf]

/-- Where nothing is fetched, the step is the next event's. -/
theorem step_of_turn {s u : State} {x : Turn} (hf : fetch s = none) (hn : nextTurn s = some (x, u)) :
    step s = .next (takeTurn x u) := by
  rw [step, hf, hn]

/-- Where nothing is fetched and no event is left, the run has ended. -/
theorem step_of_end {s : State} (hf : fetch s = none) (hn : nextTurn s = none) :
    step s = .fault .runEnded := by
  rw [step, hf, hn]

/-- Settles O4: the host's turn, given or chosen, fetches the script's head; the port's word comes before both. -/
theorem stepRunsTheFetchedInstruction : Obligations.StepRunsTheFetchedInstruction := by
  unfold Obligations.StepRunsTheFetchedInstruction
  refine ⟨fun s t rest later hrst hd ht hs => ?given, fun s t rest hrst hd ht hc hs => ?chosen,
    fun s w hrst hd => step_of_fetch (fetch_of_direct hrst hd),
    fun s d hrst hd => step_of_fetch (fetch_of_direct hrst hd)⟩
  case given => exact step_of_fetch (fetch_of_hostTurn hrst hd (nextTurn_of_turns ht) hs)
  case chosen => exact step_of_fetch (fetch_of_hostTurn hrst hd (nextTurn_of_freeChoice ht hc) hs)

/-- The turn of a busy engine, given or chosen, completes it: MOD. -/
theorem step_modTurn {s u : State} (hd : s.direct = none) (hn : nextTurn s = some (.agent .mod, u))
    (hen : enabled u .mod = true) : step s = .next (modComplete u) := by
  rw [step_of_turn (fetch_of_otherTurn hd hn nofun) hn, takeTurn, if_pos hen]

/-- The turn of a busy engine, given or chosen, completes it: DEM. -/
theorem step_demTurn {s u : State} (hd : s.direct = none) (hn : nextTurn s = some (.agent .dem, u))
    (hen : enabled u .dem = true) : step s = .next (demComplete u) := by
  rw [step_of_turn (fetch_of_otherTurn hd hn nofun) hn, takeTurn, if_pos hen]

/-- Settles O5: the free choice names an engine that has a step, so that engine is busy. -/
theorem stepOfABusyEngineIsItsCompletion : Obligations.StepOfABusyEngineIsItsCompletion := by
  unfold Obligations.StepOfABusyEngineIsItsCompletion
  intro s hrst hd modEnds demEnds
  refine ⟨fun later ht hb => ?modGiven, fun later ht hb => ?demGiven, fun ht hc => ?modChosen,
    fun ht hc => ?demChosen⟩
  case modGiven => exact step_modTurn hd (nextTurn_of_turns ht) ((enabled_iff _ .mod).2 ⟨hrst, hb⟩)
  case demGiven => exact step_demTurn hd (nextTurn_of_turns ht) ((enabled_iff _ .dem).2 ⟨hrst, hb⟩)
  case modChosen =>
    have hen := freeChoice_enabled hc
    exact ⟨((enabled_iff s .mod).1 hen).2, step_modTurn hd (nextTurn_of_freeChoice ht hc) hen⟩
  case demChosen =>
    have hen := freeChoice_enabled hc
    exact ⟨((enabled_iff s .dem).1 hen).2, step_demTurn hd (nextTurn_of_freeChoice ht hc) hen⟩

/-! ### `rst` -/

/-- Settles O11: nothing is fetched and no agent is enabled, so an agent's turn passes. -/
theorem nothingMovesDuringReset : Obligations.NothingMovesDuringReset := by
  unfold Obligations.NothingMovesDuringReset
  intro s a later hrst ht
  have hturn : takeTurn (.agent a) { s with turns := later } = { s with turns := later } := by
    cases a <;> simp [takeTurn, enabled, hrst]
  rw [step_of_turn (fetch_of_rst hrst) (nextTurn_of_turns ht), hturn]

/-- With no flag set the interrupt output is 0 (R305). -/
theorem irq_of_status_eq_zero {s : State} (h : s.status = 0#32) : s.irq = false := by simp [State.irq, h]

/-- A step that answers a next state is the first one of a run. -/
theorem run_succ_of_next {s t : State} (h : step s = .next t) (n : Nat) :
    Host.Core.run Sys2Proof.core (n + 1) s = Host.Core.run Sys2Proof.core n t := by
  simp only [Host.Core.run, show Sys2Proof.core.step s = .next t from h]

/-- A step that faults ends a run. -/
theorem run_succ_of_fault {s : State} {f : Fault} (h : step s = .fault f) (n : Nat) :
    Host.Core.run Sys2Proof.core (n + 1) s = .fault f := by
  simp only [Host.Core.run, show Sys2Proof.core.step s = .fault f from h]

/-- Two steps that answer next states are a run of two steps. -/
theorem run_two {s u t : State} (h1 : step s = .next u) (h2 : step u = .next t) :
    Host.Core.run Sys2Proof.core 2 s = .next t := by
  exact (run_succ_of_next h1 1).trans (run_succ_of_next h2 0)

/-- Settles O12: the first step asserts `rst`, the second releases it. -/
theorem resetPulseLeavesTheResetState : Obligations.ResetPulseLeavesTheResetState := by
  unfold Obligations.ResetPulseLeavesTheResetState
  intro s later hrst hd ht
  have hhigh := nextTurn_of_turns ht
  have hrise := step_of_turn (fetch_of_otherTurn hd hhigh nofun) hhigh
  have hlow := nextTurn_of_turns (s := assertReset { s with turns := .rstLow :: later }) rfl
  have hfall := step_of_turn (fetch_of_rst rfl) hlow
  refine ⟨_, run_two hrise hfall, ?_, irq_of_status_eq_zero rfl, rfl⟩
  simp only [takeTurn, releaseReset, assertReset, resetRegisters, hd]
  rfl

/-! ### The end of a run -/

/-- A step is never refused, and its one fault is the end of the run. -/
theorem step_end_or_next (s : State) :
    (fetch s = none ∧ nextTurn s = none ∧ step s = .fault .runEnded) ∨ ∃ t, step s = .next t := by
  cases hf : fetch s with
  | some p =>
    obtain ⟨t, ht⟩ := exec_next (decode p.1) p.2
    exact .inr ⟨t, (step_of_fetch hf).trans ht⟩
  | none =>
    cases hn : nextTurn s with
    | none => exact .inl ⟨rfl, rfl, step_of_end hf hn⟩
    | some p => exact .inr ⟨_, step_of_turn hf hn⟩

/-- The conditions of the end, on the state's fields: while `rst` is asserted no agent has a step, and else each
lacks what it needs. -/
theorem fetch_and_nextTurn_eq_none_iff (s : State) :
    (fetch s = none ∧ nextTurn s = none) ↔
      s.turns = [] ∧ (s.rst = true ∨ (s.direct = none ∧ s.script = [] ∧
        s.status.getLsbD 0 = false ∧ s.status.getLsbD 1 = false)) := by
  have hidle : (∀ a, enabled s a = false) ↔ s.rst = true ∨ (s.script = [] ∧
      s.status.getLsbD 0 = false ∧ s.status.getLsbD 1 = false) := by
    have hall : (∀ a, enabled s a = false) ↔
        enabled s .host = false ∧ enabled s .mod = false ∧ enabled s .dem = false :=
      ⟨fun h => ⟨h _, h _, h _⟩, fun h a => by cases a; exacts [h.1, h.2.1, h.2.2]⟩
    rw [hall]
    cases hrst : s.rst <;> simp [enabled, hrst, busy_mod_eq, busy_dem_eq]
  rw [nextTurn_eq_none_iff, hidle]
  constructor
  · rintro ⟨hf, ht, hrst | ⟨hs, hmod, hdem⟩⟩
    · exact ⟨ht, .inl hrst⟩
    · cases hrst : s.rst with
      | true => exact ⟨ht, .inl rfl⟩
      | false =>
        cases hd : s.direct with
        | none => exact ⟨ht, .inr ⟨rfl, hs, hmod, hdem⟩⟩
        | some d => rw [fetch_of_direct hrst hd] at hf; cases hf
  · rintro ⟨ht, hrst | ⟨hd, hrest⟩⟩
    · exact ⟨fetch_of_rst hrst, ht, .inl hrst⟩
    · exact ⟨fetch_of_nextTurn_eq_none hd (nextTurn_eq_none_iff.2 ⟨ht, hidle.2 (.inr hrest)⟩), ht, .inr hrest⟩

/-- Settles O6: a step ends the run or answers a next state. -/
theorem stepStopsExactlyAtTheEndOfARun : Obligations.StepStopsExactlyAtTheEndOfARun := by
  unfold Obligations.StepStopsExactlyAtTheEndOfARun
  intro s
  rw [← fetch_and_nextTurn_eq_none_iff]
  rcases step_end_or_next s with ⟨hf, hn, hstep⟩ | ⟨t, hstep⟩
  · exact ⟨by simp [hstep], fun _ => ⟨hf, hn⟩, fun _ => ⟨_, hstep⟩⟩
  · refine ⟨by simp [hstep], by simp [hstep], fun ⟨hf, hn⟩ => ⟨_, step_of_end hf hn⟩⟩

/-! ### What an engine's end leaves of STATUS -/

/-- After a modulation's end MOD is idle, and DEM's busyness is as before. -/
theorem ModResult.busy_apply {r : ModResult} {s : State} (h : r.endsWell s) (u : State) :
    (r.apply u).busy .mod = false ∧ (r.apply u).busy .dem = u.busy .dem := by
  obtain ⟨hflag, _⟩ | ⟨hflag, _⟩ := h <;>
    simp [ModResult.apply, hflag, State.busy, State.flag, Engine.busyBit, StatusBit.index]

/-- After a DEM operation's end DEM is idle, and MOD's busyness is as before. -/
theorem DemResult.busy_apply {o : DemResult} {s : State} (h : o.endsWell s) (u : State) :
    (o.apply u).busy .dem = false ∧ (o.apply u).busy .mod = u.busy .mod := by
  have hflags : o.flags.getLsbD 0 = false := getLsbD_eq_false_of_and_not h.1 (by decide)
  have hend : ∀ i < 2, (if o.demErr = 0#32 then 0x8#32 else 0x20#32 : Word).getLsbD i = false := by
    split <;> decide
  simp only [State.busy, State.flag, DemResult.apply, BitVec.getLsbD_or, BitVec.getLsbD_and, Engine.busyBit,
    StatusBit.index, hflags, hend 0 (by decide), hend 1 (by decide)]
  simp

/-! ### Every run ends -/

/-- The part of `State.pending` that instructions change. -/
def busyCount (s : State) : Nat := (if s.busy .mod then 1 else 0) + (if s.busy .dem then 1 else 0)

/-- The part of `State.pending` that the environment's order, script and port make up. -/
def queued (s : State) : Nat :=
  2 * s.script.length + s.turns.length + (if s.direct.isSome then 2 else 0)

theorem pending_eq (s : State) : s.pending = queued s + busyCount s := by
  unfold State.pending queued busyCount
  omega

/-- The count does not grow where no engine becomes busy. -/
theorem busyCount_le_of_busy {s t : State} (h : ∀ e, t.busy e = true → s.busy e = true) :
    busyCount t ≤ busyCount s := by
  have hbool : ∀ a b c d : Bool, (c = true → a = true) → (d = true → b = true) →
      (if c then 1 else 0) + (if d then 1 else 0) ≤ (if a then 1 else 0) + (if b then 1 else 0) := by decide
  exact hbool _ _ _ _ (h .mod) (h .dem)

/-- The flag of a refusal makes no engine busy. -/
theorem busyCount_raise_refusal {b : StatusBit} (hb : b ∈ [StatusBit.busyViolation, .illegalCmd, .busErr])
    (s : State) : busyCount (raise b s) ≤ busyCount s := by
  have hne : ∀ b ∈ [StatusBit.busyViolation, .illegalCmd, .busErr], StatusBit.modBusy ≠ b ∧ StatusBit.demBusy ≠ b := by
    decide
  obtain ⟨hmod, hdem⟩ := hne b hb
  refine busyCount_le_of_busy fun e he => ?_
  cases e <;> simpa [Engine.busyBit, hmod, hdem] using he

/-- With no flag set both engines are idle. -/
theorem busyCount_of_status_eq_zero {s : State} (h : s.status = 0#32) : busyCount s = 0 := by
  simp [busyCount, State.busy, State.flag, h]

/-- Starting an idle engine counts one more. -/
theorem busyCount_raise_busyBit (e : Engine) (s : State) : busyCount (raise e.busyBit s) ≤ busyCount s + 1 := by
  cases e with
  | mod => cases s.busy .mod <;> simp [busyCount, Engine.busyBit] <;> omega
  | dem => cases s.busy .dem <;> simp [busyCount, Engine.busyBit]

/-- An instruction starts at most one engine. -/
theorem busyCount_of_execEffect {i : Instr} {s t : State} (ht : ExecEffect s i t) :
    busyCount t ≤ busyCount s + 1 := by
  cases ht with
  | readReturned | kept | wroteMbyte | wroteDpcm | emitted => exact Nat.le_succ _
  | readRefused _ _ b hb => exact (busyCount_raise_refusal hb s).trans (Nat.le_succ _)
  | refused _ b hb => exact (busyCount_raise_refusal hb s).trans (Nat.le_succ _)
  | modStarted => exact busyCount_raise_busyBit .mod (idleSequencer s)
  | demStarted _ op => exact busyCount_raise_busyBit .dem { s with demOp := op }
  | softReset => simp [busyCount_of_status_eq_zero (s := softReset s) rfl]
  | reserved =>
    refine (busyCount_le_of_busy fun e he => ?_).trans (Nat.le_succ _)
    cases e <;> simp [faultMod, Engine.busyBit] at he; exact he
  | stored index r v =>
    refine (busyCount_le_of_busy fun e he => ?_).trans (Nat.le_succ _)
    cases r with
    | status => rwa [← busy_writeOneToClear v e s]
    | _ => exact he

/-- An instruction leaves the order, the script and the port alone. -/
theorem queued_of_execEffect {i : Instr} {s t : State} (ht : ExecEffect s i t) : queued t = queued s := by
  cases ht with
  | stored index r v => cases r <;> rfl
  | _ => rfl

/-- The busy engine whose turn it is becomes idle. -/
theorem busyCount_modComplete {s : State} (hb : s.busy .mod = true) :
    busyCount (modComplete s) + 1 = busyCount s := by
  obtain ⟨r, hends, hr⟩ := modComplete_eq_apply hb
  obtain ⟨hmod, hdem⟩ := ModResult.busy_apply hends s
  simp [hr, busyCount, hmod, hdem, hb, Nat.add_comm]

theorem busyCount_demComplete {s : State} (hb : s.busy .dem = true) :
    busyCount (demComplete s) + 1 = busyCount s := by
  obtain ⟨o, hends, ho⟩ := demComplete_eq_apply s
  obtain ⟨hdem, hmod⟩ := DemResult.busy_apply hends s
  simp [ho, busyCount, hmod, hdem, hb]

/-- An event that runs no instruction leaves the rest of the environment alone. -/
theorem queued_takeTurn (x : Turn) (s : State) : queued (takeTurn x s) = queued s := by
  rcases takeTurn_cases x s with h | ⟨_, _, hb, h⟩ | ⟨_, _, _, h⟩ | ⟨_, h⟩ | ⟨_, h⟩ <;> rw [h]
  · obtain ⟨r, _, hr⟩ := modComplete_eq_apply hb
    rw [hr]; rfl
  · obtain ⟨o, _, ho⟩ := demComplete_eq_apply s
    rw [ho]; rfl
  · rfl
  · rfl

/-- An event that runs no instruction starts no engine. -/
theorem busyCount_takeTurn (x : Turn) (s : State) : busyCount (takeTurn x s) ≤ busyCount s := by
  rcases takeTurn_cases x s with h | ⟨_, _, hb, h⟩ | ⟨_, _, hb, h⟩ | ⟨_, h⟩ | ⟨_, h⟩ <;> rw [h]
  · exact Nat.le_of_succ_le (busyCount_modComplete hb).le
  · exact Nat.le_of_succ_le (busyCount_demComplete hb).le
  · simp [busyCount_of_status_eq_zero (s := assertReset s) rfl]
  · exact le_refl _

/-- The turn of an engine that has a step is its completion. -/
theorem busyCount_takeTurn_of_enabled {a : Agent} {s : State} (ha : a ≠ .host) (hen : enabled s a = true) :
    busyCount (takeTurn (.agent a) s) + 1 = busyCount s := by
  cases a with
  | host => exact absurd rfl ha
  | mod =>
    rw [takeTurn, if_pos hen]
    exact busyCount_modComplete ((enabled_iff s .mod).1 hen).2
  | dem =>
    rw [takeTurn, if_pos hen]
    exact busyCount_demComplete ((enabled_iff s .dem).1 hen).2

/-- Fetching uses up two of what is queued: a transaction, or the port's word. -/
theorem pending_of_fetch {s u : State} {w : InstrWord} (hf : fetch s = some (w, u)) :
    queued u + 2 ≤ queued s ∧ busyCount u = busyCount s := by
  obtain ⟨_, ⟨d, hd, _, rfl⟩ | ⟨t, rest, hd, hs, _, ⟨later, ht, rfl⟩ | ⟨ht, rfl⟩⟩⟩ := fetch_cases hf
  · exact ⟨by simp [queued, hd], rfl⟩
  · exact ⟨by simp [queued, hd, hs, ht]; omega, rfl⟩
  · exact ⟨by simp [queued, hd, hs, ht]; omega, rfl⟩

/-- The host's transaction is fetched where the host is the free choice. -/
theorem fetch_isSome_of_freeChoice_host {s : State} (ht : s.turns = []) (hc : freeChoice s = some .host) :
    fetch s ≠ none := by
  obtain ⟨hrst, hs⟩ := (enabled_iff s .host).1 (freeChoice_enabled hc)
  cases hd : s.direct with
  | some d => simp [fetch_of_direct hrst hd]
  | none =>
    obtain ⟨t, rest, hs⟩ := List.exists_cons_of_ne_nil hs
    simp [fetch_of_hostTurn hrst hd (nextTurn_of_freeChoice ht hc) hs]

/-- The counter of free choices enables no agent. -/
theorem enabled_tick (s : State) (n : Nat) (a : Agent) : enabled { s with tick := n } a = enabled s a := by
  cases a <;> rfl

/-- Every step lowers `State.pending`: it uses up a word, a given event, or an engine's operation. -/
theorem pending_lt_of_step {s t : State} (h : step s = .next t) : t.pending < s.pending := by
  rw [pending_eq, pending_eq]
  rcases step_cases h with ⟨w, u, hf, hex⟩ | ⟨hf, x, u, hn, rfl⟩
  · have heffect := execEffect_of_exec hex
    have hqueued := queued_of_execEffect heffect
    have hbusy := busyCount_of_execEffect heffect
    have hfetched := pending_of_fetch hf
    omega
  · have hqueued := queued_takeTurn x u
    obtain ⟨later, ht, rfl⟩ | ⟨ht, a, hc, rfl, rfl⟩ := nextTurn_cases hn
    · have hbusy : busyCount (takeTurn x { s with turns := later }) ≤ busyCount s := busyCount_takeTurn x _
      have htaken : queued { s with turns := later } + 1 = queued s := by simp [queued, ht]; omega
      omega
    · have hsame : queued { s with tick := s.tick + 1 } = queued s := rfl
      have ha : a ≠ .host := by
        rintro rfl
        exact fetch_isSome_of_freeChoice_host ht hc hf
      have hbusy : busyCount (takeTurn (.agent a) { s with tick := s.tick + 1 }) + 1 = busyCount s :=
        busyCount_takeTurn_of_enabled ha ((enabled_tick s _ a).trans (freeChoice_enabled hc))
      omega

/-- Settles O7: by induction on `State.pending`, which every step lowers; a step that answers no next state is the
end. -/
theorem everyRunEnds : Obligations.EveryRunEnds := by
  unfold Obligations.EveryRunEnds
  intro s
  induction hp : s.pending using Nat.strong_induction_on generalizing s with
  | _ p ih =>
    rcases step_end_or_next s with ⟨_, _, hstep⟩ | ⟨t, hstep⟩
    · exact ⟨1, Nat.le_add_left 1 p, run_succ_of_fault hstep 0⟩
    · have hlt := pending_lt_of_step hstep
      obtain ⟨n, hn, hrun⟩ := ih t.pending (hp ▸ hlt) t rfl
      exact ⟨n + 1, by omega, (run_succ_of_next hstep n).trans hrun⟩

end Sys2Proof.Machine
end

section
/-! PROOFS. How an engine's operation ends, in the machine's own steps: success or one fault; the two engines commute;
the interrupt output. -/

namespace Sys2Proof.Machine

/-! ### One way to end -/

/-- The next event is an agent's turn, whether given or chosen; taking it leaves the block alone. -/
theorem nextTurn_of_given_or_chosen {s : State} {a : Agent} {later : List Turn}
    (h : s.turns = .agent a :: later ∨ s.turns = [] ∧ freeChoice s = some a) :
    ∃ u, nextTurn s = some (.agent a, u) ∧ ∃ turns tick, u = { s with turns := turns, tick := tick } := by
  rcases h with ht | ⟨ht, hc⟩
  · exact ⟨_, nextTurn_of_turns ht, _, _, rfl⟩
  · exact ⟨_, nextTurn_of_freeChoice ht hc, _, _, rfl⟩

/-- A modulation's result on STATUS: MOD_DONE or MOD_FAULT is raised, as MOD_ERR tells (R27). -/
theorem ModResult.status_apply {r : ModResult} {s u : State} (h : r.endsWell s)
    (hdone : u.status.getLsbD 2 = false) (hfault : u.status.getLsbD 4 = false) :
    (r.apply u).status.getLsbD 2 = decide (r.modErr = 0#32) ∧
      (r.apply u).status.getLsbD 4 = decide (r.modErr ≠ 0#32) := by
  simp only [ModResult.apply, BitVec.getLsbD_or, BitVec.getLsbD_and, hdone, hfault, Bool.false_and, Bool.false_or]
  obtain ⟨hflag, herr⟩ | ⟨hflag, herr, _⟩ := h
  · simp [hflag, herr]
  · simp [hflag, herr]

/-- Settles O40: the step is the engine's completion, which writes one result. -/
theorem modulationEndsInExactlyOneWay : Obligations.ModulationEndsInExactlyOneWay := by
  unfold Obligations.ModulationEndsInExactlyOneWay
  intro s t later hrst hd hturn hb hdone hfault hstep
  obtain ⟨u, hn, turns, tick, hu⟩ := nextTurn_of_given_or_chosen hturn
  have hstatus : u.status = s.status := by rw [hu]
  rw [← hstatus] at hb hdone hfault
  have hen : enabled u .mod = true := (enabled_iff u .mod).2 ⟨by rw [hu]; exact hrst, hb⟩
  obtain ⟨r, hends, hr⟩ := modComplete_eq_apply hb
  rw [step_modTurn hd hn hen, hr] at hstep
  cases hstep
  obtain ⟨hdone', hfault'⟩ := ModResult.status_apply hends hdone hfault
  refine ⟨(ModResult.busy_apply hends u).1, by simp only [hdone', hfault', ne_eq, decide_not, Bool.not_not],
    by rw [hdone', decide_eq_true_iff]; rfl, fun hf => ?_⟩
  rw [hfault', decide_eq_true_iff] at hf
  obtain ⟨_, herr⟩ | ⟨_, _, hnsamp, hmpcm⟩ := hends
  · exact absurd herr hf
  · rw [hu] at hmpcm ⊢
    exact ⟨hnsamp, rfl, hmpcm, rfl, rfl⟩

/-- A DEM operation's result on STATUS: DEM_DONE or DEM_FAULT is raised, as DEM_ERR tells (R28). -/
theorem DemResult.status_apply {o : DemResult} {s u : State} (h : o.endsWell s)
    (hdone : u.status.getLsbD 3 = false) (hfault : u.status.getLsbD 5 = false) :
    (o.apply u).status.getLsbD 3 = decide (o.demErr = 0#32) ∧
      (o.apply u).status.getLsbD 5 = decide (o.demErr ≠ 0#32) := by
  have hflags3 : o.flags.getLsbD 3 = false := getLsbD_eq_false_of_and_not h.1 (by decide)
  have hflags5 : o.flags.getLsbD 5 = false := getLsbD_eq_false_of_and_not h.1 (by decide)
  simp only [DemResult.apply, BitVec.getLsbD_or, BitVec.getLsbD_and, hdone, hfault, hflags3, hflags5,
    Bool.or_self, Bool.false_and, Bool.false_or]
  by_cases herr : o.demErr = 0#32 <;> simp [herr]

/-- Settles O51: the step is the engine's completion, which writes one result. -/
theorem demOperationEndsInExactlyOneWay : Obligations.DemOperationEndsInExactlyOneWay := by
  unfold Obligations.DemOperationEndsInExactlyOneWay
  intro s t later hrst hd hturn hb hdone hfault hstep
  obtain ⟨u, hn, turns, tick, hu⟩ := nextTurn_of_given_or_chosen hturn
  have hstatus : u.status = s.status := by rw [hu]
  rw [← hstatus] at hb hdone hfault
  have hen : enabled u .dem = true := (enabled_iff u .dem).2 ⟨by rw [hu]; exact hrst, hb⟩
  obtain ⟨o, hends, ho⟩ := demComplete_eq_apply u
  rw [step_demTurn hd hn hen, ho] at hstep
  cases hstep
  obtain ⟨hdone', hfault'⟩ := DemResult.status_apply hends hdone hfault
  refine ⟨(DemResult.busy_apply hends u).1, by simp only [hdone', hfault', ne_eq, decide_not, Bool.not_not],
    by rw [hdone', decide_eq_true_iff]; rfl, fun hf => ?_⟩
  rw [hfault', decide_eq_true_iff] at hf
  obtain ⟨hdbyte, hpix⟩ := hends.2 hf
  rw [hu] at hdbyte ⊢
  exact ⟨hpix, rfl, rfl, rfl, hdbyte⟩

/-! ### Both engines -/

/-- Two rewritings of STATUS commute where neither sets a bit that the other clears. -/
theorem status_updates_comm {a c f g d h : Word} (hfd : f &&& d = 0#32) (hgc : g &&& c = 0#32)
    (hhc : h &&& c = 0#32) :
    ((a &&& ~~~c ||| f) ||| g) &&& ~~~d ||| h = ((a ||| g) &&& ~~~d ||| h) &&& ~~~c ||| f := by
  apply BitVec.eq_of_getLsbD_eq
  intro i hi
  have hfd := congrArg (BitVec.getLsbD · i) hfd
  have hgc := congrArg (BitVec.getLsbD · i) hgc
  have hhc := congrArg (BitVec.getLsbD · i) hhc
  simp only [BitVec.getLsbD_or, BitVec.getLsbD_and, BitVec.getLsbD_not, BitVec.getLsbD_zero, hi, decide_true,
    Bool.true_and] at hfd hgc hhc ⊢
  generalize a.getLsbD i = a, c.getLsbD i = c, f.getLsbD i = f, g.getLsbD i = g, d.getLsbD i = d,
    h.getLsbD i = h at *
  revert a c f g d h
  decide

/-- The two engines' results can be written in either order: they share no field but STATUS. -/
theorem apply_comm {r : ModResult} {o : DemResult} {s t : State} (hr : r.endsWell s) (ho : o.endsWell t)
    (u : State) : o.apply (r.apply u) = r.apply (o.apply u) := by
  have hf : r.flag &&& 0x2#32 = 0#32 := by obtain ⟨h, _⟩ | ⟨h, _⟩ := hr <;> rw [h] <;> decide
  have hg : o.flags &&& 0x1#32 = 0#32 := by
    have hmask : (0x1#32 : Word) = ~~~0x3C0#32 &&& 0x1#32 := by decide
    rw [hmask, ← BitVec.and_assoc, ho.1, BitVec.zero_and]
  have hh : (if o.demErr = 0#32 then 0x8#32 else 0x20#32 : Word) &&& 0x1#32 = 0#32 := by split <;> decide
  simp only [DemResult.apply, ModResult.apply, status_updates_comm hf hg hh]

/-- Both engines busy: completing MOD and then DEM leaves what DEM and then MOD leaves. Each engine's result is the
one it would have had first, since neither writes what the other reads. -/
theorem demComplete_modComplete {s : State} (hmod : s.busy .mod = true) :
    demComplete (modComplete s) = modComplete (demComplete s) := by
  obtain ⟨r, _, hr⟩ := modComplete_eq_apply hmod
  have hdemInputs : SameDemInputs s (modComplete s) := by rw [hr]; constructor <;> rfl
  obtain ⟨o, ho, hdemFirst, hdemSecond⟩ := demComplete_depends hdemInputs
  have hmod' : (demComplete s).busy .mod = true := by rw [hdemFirst, (DemResult.busy_apply ho s).2, hmod]
  have hmodInputs : SameModInputs s (demComplete s) := by rw [hdemFirst]; constructor <;> rfl
  obtain ⟨r', hr', hmodFirst, hmodSecond⟩ := modComplete_depends hmodInputs hmod hmod'
  calc demComplete (modComplete s)
      = o.apply (r'.apply s) := by rw [hdemSecond, hmodFirst]
    _ = r'.apply (o.apply s) := apply_comm hr' ho s
    _ = modComplete (demComplete s) := by rw [hmodSecond, hdemFirst]

/-- The given order of events is nothing that a completion sees or changes: MOD. -/
theorem modComplete_turns {s : State} (hb : s.busy .mod = true) (later : List Turn) :
    modComplete { s with turns := later } = { modComplete s with turns := later } := by
  have hinputs : SameModInputs s { s with turns := later } := by constructor <;> rfl
  obtain ⟨r, _, hs, ht⟩ := modComplete_depends hinputs hb hb
  rw [hs, ht]
  rfl

/-- The given order of events is nothing that a completion sees or changes: DEM. -/
theorem demComplete_turns (s : State) (later : List Turn) :
    demComplete { s with turns := later } = { demComplete s with turns := later } := by
  have hinputs : SameDemInputs s { s with turns := later } := by constructor <;> rfl
  obtain ⟨o, _, hs, ht⟩ := demComplete_depends hinputs
  rw [hs, ht]
  rfl

/-- A given turn of a busy engine, outside `rst` and with the port empty: MOD. -/
theorem step_modTurn_given {s : State} (hrst : s.rst = false) (hd : s.direct = none) (hb : s.busy .mod = true)
    (later : List Turn) :
    step { s with turns := .agent .mod :: later } = .next { modComplete s with turns := later } := by
  rw [← modComplete_turns hb]
  exact step_modTurn hd (nextTurn_of_turns rfl) ((enabled_iff _ .mod).2 ⟨hrst, hb⟩)

/-- A given turn of a busy engine, outside `rst` and with the port empty: DEM. -/
theorem step_demTurn_given {s : State} (hrst : s.rst = false) (hd : s.direct = none) (hb : s.busy .dem = true)
    (later : List Turn) :
    step { s with turns := .agent .dem :: later } = .next { demComplete s with turns := later } := by
  rw [← demComplete_turns]
  exact step_demTurn hd (nextTurn_of_turns rfl) ((enabled_iff _ .dem).2 ⟨hrst, hb⟩)

/-- Settles O53: one engine's completion leaves the other busy, and the completions commute. -/
theorem enginesCommute : Obligations.EnginesCommute := by
  unfold Obligations.EnginesCommute
  intro s later hrst hd hmod hdem
  obtain ⟨r, hr, hrs⟩ := modComplete_eq_apply hmod
  obtain ⟨o, ho, hos⟩ := demComplete_eq_apply s
  refine ⟨{ demComplete (modComplete s) with turns := later }, ?modFirst, ?demFirst⟩
  case modFirst =>
    have hdem' : (modComplete s).busy .dem = true := by rw [hrs, (ModResult.busy_apply hr s).2]; exact hdem
    exact run_two (step_modTurn_given hrst hd hmod _)
      (step_demTurn_given (by rw [hrs]; exact hrst) (by rw [hrs]; exact hd) hdem' later)
  case demFirst =>
    have hmod' : (demComplete s).busy .mod = true := by rw [hos, (DemResult.busy_apply ho s).2]; exact hmod
    rw [demComplete_modComplete hmod]
    exact run_two (step_demTurn_given hrst hd hdem _)
      (step_modTurn_given (by rw [hos]; exact hrst) (by rw [hos]; exact hd) hmod' later)

/-- Settles O55: the law of `irq`. -/
theorem irqIsAnyEnabledStickyFlag : Obligations.IrqIsAnyEnabledStickyFlag := by
  unfold Obligations.IrqIsAnyEnabledStickyFlag
  exact irq_iff

end Sys2Proof.Machine
end

section
/-! PROOFS. The host's transactions that are performed (47_host_commands.md): reads and writes of idle memories,
writes of unlocked registers, the commands. -/

namespace Sys2Proof.Machine

/-! ### Memory cells -/

/-- A read of an idle engine's cell returns its data and changes nothing else (R260). -/
theorem exec_rd_idle {s : State} {region : BitVec 4} {index : BitVec 20} {e : Engine} {data : Word}
    (hread : busRead region index s = readOwned e data s) (hidle : s.busy e = false) :
    exec (.rd region index) s = .next { s with readLog := s.readLog ++ [data] } := by
  simp [exec, execRd, hread, readOwned, hidle, returnData]

/-- A byte on the bus has the byte's value (R72). -/
theorem toNat_busOfByte (b : Byte) : (busOfByte b).toNat = b.toNat :=
  BitVec.toNat_setWidth_of_le (by decide)

/-- A sample on the bus has the sample's signed value (R72). -/
theorem toInt_busOfPcm (p : Pcm) : (busOfPcm p).toInt = p.toInt :=
  BitVec.toInt_signExtend_of_le (by decide)

/-- Settles O17: each memory's region leads to its owned cell, whose data the bus widens. -/
theorem memoryReadWidensTheCell : Obligations.MemoryReadWidensTheCell := by
  unfold Obligations.MemoryReadWidensTheCell
  intro s index reads
  refine ⟨fun hidle hcap => ⟨_, exec_rd_idle (e := .mod) ?mbyte hidle, toNat_busOfByte _⟩,
    fun hidle hcap => ⟨_, exec_rd_idle (e := .mod) ?mpcm hidle, toInt_busOfPcm _⟩,
    fun hidle hcap => ⟨_, exec_rd_idle (e := .dem) ?dpcm hidle, toInt_busOfPcm _⟩,
    fun hidle hcap => ⟨_, exec_rd_idle (e := .dem) ?dbyte hidle, toNat_busOfByte _⟩⟩
  all_goals simp [busRead, target, hcap]

/-- Write data narrowed to its low bits (R110). -/
theorem toNat_extractLsb'_low (v : Word) (n : Nat) : (v.extractLsb' 0 n).toNat = v.toNat % 2 ^ n := by
  rw [BitVec.extractLsb'_toNat, Nat.shiftRight_zero]

/-- A write to a cell of MBYTE, MOD idle, stores the low byte there (R261). -/
theorem exec_wr_mbyte {s : State} {index : BitVec 20} (v : Word) (hidle : s.busy .mod = false)
    (hcap : index.toNat < s.config.capMbyte) :
    exec (.wr 0x1#4 index v) s = .next { s with mbyte := s.mbyte.write index.toNat (byteOfBus v) } := by
  simp [exec, execWr, busWrite, target, hcap, hidle]

/-- A write to a cell of DPCM, DEM idle, stores the low 16 bits there (R261). -/
theorem exec_wr_dpcm {s : State} {index : BitVec 20} (v : Word) (hidle : s.busy .dem = false)
    (hcap : index.toNat < s.config.capDpcm) :
    exec (.wr 0x3#4 index v) s = .next { s with dpcm := s.dpcm.write index.toNat (pcmOfBus v) } := by
  simp [exec, execWr, busWrite, target, hcap, hidle]

/-- Settles O18: the write is one cell's, and a cell's write is read back there and nowhere else. -/
theorem memoryWriteNarrowsIntoOneCell : Obligations.MemoryWriteNarrowsIntoOneCell := by
  unfold Obligations.MemoryWriteNarrowsIntoOneCell
  intro s index v
  refine ⟨fun hidle hcap => ⟨_, exec_wr_mbyte v hidle hcap, rfl, ?mbyte, fun a ha => read_write_other _ _ ha⟩,
    fun hidle hcap => ⟨_, exec_wr_dpcm v hidle hcap, rfl, ?dpcm, fun a ha => read_write_other _ _ ha⟩⟩
  case mbyte => rw [read_write_same]; exact toNat_extractLsb'_low v 8
  case dpcm => rw [read_write_same]; exact toNat_extractLsb'_low v 16

/-! ### Repeated reads -/

/-- Raising a flag twice is raising it once. -/
theorem raise_raise (b : StatusBit) (s : State) : raise b (raise b s) = raise b s := by
  simp [raise, BitVec.or_assoc]

/-- The record of returned data is nothing that a read sees. -/
theorem busRead_returnData (region : BitVec 4) (index : BitVec 20) (v : Word) (s : State) :
    busRead region index (returnData v s) =
      ((busRead region index s).1, returnData v (busRead region index s).2) := by
  unfold busRead readOwned
  rw [returnData_config]
  cases target s.config region index with
  | none => rfl
  | some t =>
    cases t with
    | reg r => cases r <;> rfl
    | mbyte i | mpcm i => cases hb : s.busy .mod <;> simp only [busy_returnData, hb] <;> rfl
    | dpcm i | dbyte i => cases hb : s.busy .dem <;> simp only [busy_returnData, hb] <;> rfl

/-- Reading again in the state that a read leaves gives the same data and leaves that state. -/
theorem busRead_again (region : BitVec 4) (index : BitVec 20) (s : State) :
    busRead region index (busRead region index s).2 = busRead region index s := by
  unfold busRead readOwned
  cases ht : target s.config region index with
  | none => simp [ht, raise_raise]
  | some t =>
    cases t with
    | reg r => simp [ht]
    | mbyte i | mpcm i => cases hb : s.busy .mod <;> simp [ht, hb, raise_raise]
    | dpcm i | dbyte i => cases hb : s.busy .dem <;> simp [ht, hb, raise_raise]

/-- A read is its data, recorded, over the state that it leaves. -/
theorem exec_rd (region : BitVec 4) (index : BitVec 20) (s : State) :
    exec (.rd region index) s = .next (returnData (busRead region index s).1 (busRead region index s).2) := rfl

/-- Settles O20: the second read sees the state that the first one left, but for the record. -/
theorem repeatedReadReturnsTheSameData : Obligations.RepeatedReadReturnsTheSameData := by
  unfold Obligations.RepeatedReadReturnsTheSameData
  intro s t region index hread
  have hlog : (busRead region index s).2.readLog = s.readLog := by
    rcases busRead_state region index s with h | h | ⟨_, h⟩ <;> rw [h] <;> rfl
  have hagain := busRead_again region index s
  rw [exec_rd] at hread
  generalize busRead region index s = p at hlog hagain hread
  obtain ⟨v, u⟩ := p
  replace hlog : u.readLog = s.readLog := hlog
  cases hread
  have hsecond : busRead region index (returnData v u) = (v, returnData v u) := by
    rw [busRead_returnData, hagain]
  refine ⟨v, returnData v (returnData v u), ?_, by rw [exec_rd, hsecond], ?_, rfl⟩
  · rw [returnData_readLog, hlog]
  · simp [hlog]

/-! ### Registers -/

/-- A write to a register that stores, unlocked, stores the value (R263). -/
theorem exec_wr_unlocked (v : Word) {s : State} {index : BitVec 20} (r : Reg) (h : index.toNat = r.index)
    (hrw : r.access = .rw) (hl : r.lock.holds s = false) :
    exec (.wr 0x0#4 index v) s = .next (storeReg r v s) := by
  have hcmd : r ≠ .cmd := by rintro rfl; cases hrw
  rw [exec_wr_register v s h (by simp [hrw]), regWrite, if_neg (by simp [hl]), if_neg hcmd]

/-- Settles O21: one write for each storing register, with its lock. -/
theorem registerWriteStoresTheValue : Obligations.RegisterWriteStoresTheValue := by
  unfold Obligations.RegisterWriteStoresTheValue
  intro s v
  refine ⟨fun hmod hdem => ?_, exec_wr_unlocked v .modNbits rfl rfl, exec_wr_unlocked v .demNsamp rfl rfl,
    exec_wr_unlocked v .irqEn rfl rfl rfl, exec_wr_unlocked v .status rfl rfl rfl⟩
  have hidle : s.anyBusy = false := by rw [State.anyBusy, busy_mod_eq, busy_dem_eq, hmod, hdem]; rfl
  exact ⟨exec_wr_unlocked v .ctrl rfl rfl hidle, exec_wr_unlocked v .sampleRate rfl rfl hidle,
    exec_wr_unlocked v .baudRate rfl rfl hidle, exec_wr_unlocked v .carrierFreq rfl rfl hidle,
    exec_wr_unlocked v .markerFreq rfl rfl hidle, exec_wr_unlocked v .markerDurUs rfl rfl hidle,
    exec_wr_unlocked v .frameH rfl rfl hidle, exec_wr_unlocked v .frameW rfl rfl hidle,
    exec_wr_unlocked v .toneFreq0 rfl rfl hidle, exec_wr_unlocked v .toneFreq1 rfl rfl hidle,
    exec_wr_unlocked v .toneFreq2 rfl rfl hidle, exec_wr_unlocked v .toneFreq3 rfl rfl hidle⟩

/-! ### Commands -/

/-- Settles O26: the command's meaning, its flags as words. -/
theorem modStartMakesModBusy : Obligations.ModStartMakesModBusy := by
  unfold Obligations.ModStartMakesModBusy
  exact fun s => rfl

/-- Settles O27: the command's meaning, its flags as words. -/
theorem demStartMakesDemBusy : Obligations.DemStartMakesDemBusy := by
  unfold Obligations.DemStartMakesDemBusy
  exact fun s => rfl

/-- Settles O28: the command's meaning, its flags as words. -/
theorem pixFmtMakesDemBusy : Obligations.PixFmtMakesDemBusy := by
  unfold Obligations.PixFmtMakesDemBusy
  exact fun s => rfl

/-- Settles O29: the command's meaning; with no flag set `irq` is 0 and no engine has a step. -/
theorem softResetLeavesTheResetRegisters : Obligations.SoftResetLeavesTheResetRegisters := by
  unfold Obligations.SoftResetLeavesTheResetRegisters
  intro s
  exact ⟨softReset s, rfl, rfl, irq_of_status_eq_zero rfl, by simp [enabled, State.busy, State.flag, softReset],
    by simp [enabled, State.busy, State.flag, softReset]⟩

end Sys2Proof.Machine
end

section
/-! PROOFS. The modulation (40_symbol_alphabet.md to 43_modulator.md): segments, frame, faults, quantiser, success. -/

namespace Sys2Proof.Machine

/-! ### Segments -/

/-- A list of numbers, mapped as rationals. -/
theorem map_bind_pure_natCast {α : Type} (g : ℚ → α) (l : List ℕ) :
    List.map g (do let n ← l; pure (n : ℚ)) = l.map fun n : ℕ => g n := by
  simp [← List.map_eq_flatMap, Function.comp_def]

section Values

variable {K : Type} [Field K]

/-- The values of a tone: its sine, its window and its carrier, over its samples (R140). -/
theorem map_eval_toneSamples (T : Numeric K) (f N : Nat) (win : Window) (fc rate : Nat) :
    (toneSamples f N win fc rate).map (ToneSample.eval T) = (List.range N).map fun n : ℕ =>
      T.sin1 (((f * n : ℕ) : ℚ) / (rate : ℚ)) * windowValue T win N n * carrierFactor T fc rate n := by
  rw [toneSamples, List.map_map]
  rfl

/-- The values that a symbol's segment appends (R135, R143, R144). -/
theorem map_eval_symbolSamples (T : Numeric K) (s : State) (c : SymbolCode) :
    (symbolSamples s c).map (ToneSample.eval T) = (List.range (sps s)).map fun n : ℕ =>
      T.sin1 ((toneFreq s c * n : ℚ) / (s.sampleRate.toNat : ℚ)) *
        (if sps s = 1 then 1 else 27 / 50 - 23 / 50 * T.cos1 ((n : ℚ) / ((sps s : ℚ) - 1))) *
        (if s.carrierFreq.toNat = 0 then 1
         else T.cos1 ((s.carrierFreq.toNat * n : ℚ) / (s.sampleRate.toNat : ℚ))) := by
  rw [symbolSamples, map_eval_toneSamples]
  refine List.map_congr_left fun n hn => ?_
  have hone : sps s ≤ 1 ↔ sps s = 1 := by
    have hn := List.mem_range.1 hn
    omega
  simp only [windowValue, hamming, carrierFactor, hone, Nat.cast_mul]

/-- A marker half's values: a pure tone (R161). -/
theorem map_eval_rectSamples (T : Numeric K) (f N rate : Nat) :
    (toneSamples f N .rect 0 rate).map (ToneSample.eval T) =
      (List.range N).map fun n : ℕ => T.sin1 ((f * n : ℚ) / (rate : ℚ)) := by
  simp [map_eval_toneSamples, windowValue, carrierFactor]

end Values

/-- Settles O31: each descriptor emits its symbol's samples, whose values are the tone's. -/
theorem symbolSegmentAppendsItsTone : Obligations.SymbolSegmentAppendsItsTone := by
  unfold Obligations.SymbolSegmentAppendsItsTone
  intro K _ T s p hp N sr
  have happend (c : SymbolCode) := congrArg (s.buf.map (ToneSample.eval T) ++ ·) (map_eval_symbolSamples T s c)
  simp only [← List.map_append] at happend
  rw [map_bind_pure_natCast]
  simp only [List.mem_cons, List.not_mem_nil, or_false] at hp
  rcases hp with rfl | rfl | rfl | rfl
  · exact ⟨runSym00 s, rfl, rfl, happend 0b00#2⟩
  · exact ⟨runSym01 s, rfl, rfl, happend 0b01#2⟩
  · exact ⟨runSym10 s, rfl, rfl, happend 0b10#2⟩
  · exact ⟨runSym11 s, rfl, rfl, happend 0b11#2⟩

/-- Settles O32: each descriptor emits a marker half, whose values are a pure tone's. -/
theorem markerSegmentAppendsAPureTone : Obligations.MarkerSegmentAppendsAPureTone := by
  unfold Obligations.MarkerSegmentAppendsAPureTone
  intro K _ T s p hp
  rw [map_bind_pure_natCast]
  simp only [List.mem_cons, List.not_mem_nil, or_false] at hp
  rcases hp with rfl | rfl
  · refine ⟨runMlo s, rfl, rfl, ?_⟩
    rw [runMlo, emit_buf, List.map_append, markerLowSamples, map_eval_rectSamples]
    simp [markerHalf]
  · refine ⟨runMhi s, rfl, rfl, ?_⟩
    rw [runMhi, emit_buf, List.map_append, markerHighSamples, map_eval_rectSamples]
    simp [markerHalf]

/-- The end of a modulation by a fault, on the fields it writes (R300). -/
theorem faultMod_eq (k : ErrKind) (s : State) :
    faultMod k s = { s with
      modErr := k.code, modNsamp := 0#32, seqSeg := 0, seqN := 0, buf := []
      status := s.status &&& ~~~0x1#32 ||| 0x10#32 } := rfl

/-- Settles O33: a reserved descriptor decodes to itself, and its meaning is the fault. -/
theorem reservedSegmentRaisesInvalidSymbol : Obligations.ReservedSegmentRaisesInvalidSymbol := by
  unfold Obligations.ReservedSegmentRaisesInvalidSymbol
  exact fun s low => ⟨Laws.RoundTrip.segReserved low rfl, congrArg Host.Outcome.next (faultMod_eq .invalidSymbol s)⟩

/-! ### Configuration and frame -/

/-- `cfg_ok` holds exactly under the conditions of R52. -/
theorem cfgOk_iff (s : State) : cfgOk s = true ↔ ConfigValid s := by
  simp only [cfgOk, Bool.and_eq_true, decide_eq_true_iff, and_assoc]
  exact Iff.rfl

/-- `cfg_ok` fails exactly where some condition of R52 does. -/
theorem cfgOk_eq_false_iff (s : State) : cfgOk s = false ↔ ¬ConfigValid s := by
  rw [← cfgOk_iff, Bool.not_eq_true]

/-- Settles O34: the check is the list of R52, whose first condition fails after reset. -/
theorem configurationCheckIsTheSpecs : Obligations.ConfigurationCheckIsTheSpecs := by
  unfold Obligations.ConfigurationCheckIsTheSpecs
  exact ⟨cfgOk_iff, by decide⟩

/-- Settles O36: the law of the rendered frame, and the frame's length. -/
theorem sequencerRendersTheFrame : Obligations.SequencerRendersTheFrame := by
  unfold Obligations.SequencerRendersTheFrame
  exact fun s hb => ⟨renderStage_eq s hb, length_frameSamples s⟩

/-! ### Faults in order -/

section Values

variable {K : Type} [Field K] [LinearOrder K] [IsStrictOrderedRing K]

/-- The frame is silent exactly where its peak is 0 (R181). -/
theorem peakOf_frameValues_eq_zero_iff (T : Numeric K) (s : State) :
    peakOf (frameValues T s) = 0 ↔ ∀ x ∈ frameSamples s, ToneSample.eval T x = 0 := by
  simp [peakOf_eq_zero_iff, frameValues]

end Values

/-- Settles O37: the equation of a modulation, its checks rewritten in order. -/
theorem modulationFaultsInOrder : Obligations.ModulationFaultsInOrder := by
  unfold Obligations.ModulationFaultsInOrder
  intro K _ _ _ _ T s hb faulted overflow
  have hfault : ∀ k, modCompleteIn T s = faultMod k s → faulted k.code := fun k h =>
    h.trans (faultMod_eq k s)
  have hover : s.config.capMbyte < payloadBytes s ∨ s.config.capMpcm < frameLen s ↔ overflow := Iff.rfl
  have heq := modCompleteIn_eq T s hb
  simp only [cfgOk_eq_false_iff, hover, peakOf_frameValues_eq_zero_iff] at heq
  refine ⟨fun hodd => hfault .invalidPayloadLength ?_, fun heven hcfg => hfault .configInvalid ?_,
    fun heven hcfg hover => hfault .capacity ?_, fun heven hcfg hfits hsilent => hfault .zeroPeak ?_⟩
  · rw [heq, if_pos hodd]
  · rw [heq, if_neg (by omega), if_pos hcfg]
  · rw [heq, if_neg (by omega), if_neg (not_not.2 hcfg), if_pos hover]
  · rw [heq, if_neg (by omega), if_neg (not_not.2 hcfg), if_neg hfits, if_pos hsilent]

/-! ### The quantiser -/

section Quantiser

variable {K : Type} [Field K] [LinearOrder K] [IsStrictOrderedRing K] [FloorRing K]

omit [IsStrictOrderedRing K] in
/-- A quantised sample as a signed number (R182). -/
theorem exists_getElem?_quantisedFrame (T : Numeric K) (q : QRound) {buf : List K} {i : Nat} {b : K}
    (hi : buf[i]? = some b)
    (hrange : -32767 ≤ quantise T q (b * 32767 / peakOf buf) ∧ quantise T q (b * 32767 / peakOf buf) ≤ 32767) :
    ∃ p : Pcm, (quantisedFrame T q buf)[i]? = some p ∧ p.toInt = quantise T q (b * 32767 / peakOf buf) := by
  refine ⟨_, by rw [quantisedFrame, List.getElem?_map, hi, Option.map_some], ?_⟩
  exact toInt_ofInt_pcm (by omega) hrange.2

omit [IsStrictOrderedRing K] [FloorRing K] in
/-- A sample of the largest magnitude has the peak's (R180). -/
theorem abs_eq_peakOf {buf : List K} {b : K} (hb : b ∈ buf) (hmax : ∀ x ∈ buf, |x| ≤ |b|)
    (hpeak : peakOf buf ≠ 0) : |b| = peakOf buf := by
  obtain ⟨x, hx, hxp⟩ := exists_abs_eq_peakOf buf hpeak
  exact le_antisymm (abs_le_peakOf buf hb) (hxp ▸ hmax x hx)

omit [FloorRing K] in
/-- A sample of full magnitude is scaled to full scale, by its sign (R182). -/
theorem scaled_of_abs_eq_peakOf {buf : List K} {b : K} (habs : |b| = peakOf buf) (hpeak : peakOf buf ≠ 0) :
    b * 32767 / peakOf buf = ((if 0 < b then 32767 else -32767 : ℤ) : K) := by
  rw [← habs] at hpeak ⊢
  have hb : b ≠ 0 := abs_ne_zero.1 hpeak
  split_ifs with hpos
  · rw [abs_of_pos hpos, mul_div_assoc, mul_comm, div_mul_cancel₀ _ hb]
    norm_num
  · rw [abs_of_neg (lt_of_le_of_ne (not_lt.1 hpos) hb), mul_div_assoc, mul_comm, div_neg, neg_mul,
      div_mul_cancel₀ _ hb]
    norm_num

end Quantiser

/-- Settles O39: a scaled sample lies in the range, so truncation decides its code. -/
theorem quantiserReachesFullScale : Obligations.QuantiserReachesFullScale := by
  unfold Obligations.QuantiserReachesFullScale
  intro K _ _ _ _ T buf i b ⟨y, hy, hy0⟩ hi
  have hb : b ∈ buf := List.mem_of_getElem? hi
  have hpeak : peakOf buf ≠ 0 := fun h => hy0 ((peakOf_eq_zero_iff buf).1 h y hy)
  have hpos : 0 < peakOf buf := lt_of_le_of_ne (peakOf_nonneg buf) (Ne.symm hpeak)
  have hrange := truncate_range (abs_scaled_le buf hb hpeak)
  obtain ⟨q, hq, hval⟩ := exists_getElem?_quantisedFrame T .trunc hi hrange
  rw [quantise] at hval
  refine ⟨q, hq, by omega, fun hmax => ?full, fun hzero => ?zero, fun hb => ?nonneg, fun hb => ?nonpos⟩
  case full => rw [hval, scaled_of_abs_eq_peakOf (abs_eq_peakOf hb hmax hpeak) hpeak, truncate_intCast]
  case zero =>
    have htrunc := truncate_intCast (K := K) 0
    rw [Int.cast_zero] at htrunc
    rw [hval, hzero, zero_mul, zero_div, htrunc]
  case nonneg =>
    rw [hval]
    exact (truncate_of_nonneg (by positivity)).1
  case nonpos =>
    rw [hval]
    exact (truncate_of_nonpos (div_nonpos_of_nonpos_of_nonneg (by linarith) hpos.le)).1

/-! ### Success -/

/-- A cell inside a store from index 0 on holds its listed value. -/
theorem read_store_zero {w : Nat} (m : Memory w) {vs : List (BitVec w)} {i : Nat} {v : BitVec w}
    (h : vs[i]? = some v) : (m.store 0 vs).read i = v := by
  obtain ⟨hi, rfl⟩ := List.getElem?_eq_some_iff.1 h
  rw [read_store, if_pos (by omega)]
  simp [hi]

/-- A cell beyond a store from index 0 on keeps its content. -/
theorem read_store_zero_of_le {w : Nat} (m : Memory w) {vs : List (BitVec w)} {i : Nat} (h : vs.length ≤ i) :
    (m.store 0 vs).read i = m.read i := by
  rw [read_store, if_neg (by omega)]

/-- A modulation past its checks is its success (R185). -/
theorem modCompleteIn_eq_finishMod {K : Type} [Field K] [LinearOrder K] [FloorRing K] (T : Numeric K) {s : State}
    (hb : s.busy .mod = true) (heven : s.modNbits.toNat % 2 = 0) (hcfg : ConfigValid s)
    (hbytes : payloadBytes s ≤ s.config.capMbyte) (hfits : frameLen s ≤ s.config.capMpcm)
    (hpeak : peakOf (frameValues T s) ≠ 0) :
    modCompleteIn T s = finishMod (quantisedFrame T s.config.qRound (frameValues T s)) (frameLen s) s := by
  have hcfg := not_not.2 hcfg
  rw [← cfgOk_eq_false_iff] at hcfg
  rw [modCompleteIn_eq T s hb, if_neg (by omega), if_neg hcfg, if_neg (by omega), if_neg hpeak]

/-- Settles O38: past the checks the operation is `finishMod`; the stored cells are the quantised samples, the
others are kept. -/
theorem modulationWritesTheQuantisedFrame : Obligations.ModulationWritesTheQuantisedFrame := by
  unfold Obligations.ModulationWritesTheQuantisedFrame
  intro K _ _ _ _ T s hT hwf hb heven hcfg hbytes hfits hsound
  have hpeak : peakOf (frameValues T s) ≠ 0 := by
    obtain ⟨x, hx, hx0⟩ := hsound
    exact fun h => hx0 ((peakOf_frameValues_eq_zero_iff T s).1 h x hx)
  have hlen : (quantisedFrame T s.config.qRound (frameValues T s)).length = frameLen s := by simp
  obtain ⟨_, ⟨_, hcap⟩, _⟩ := hwf
  refine ⟨_, peakOf (frameValues T s), modCompleteIn_eq_finishMod T hb heven hcfg hbytes hfits hpeak, rfl,
    Nat.mod_eq_of_lt (by omega), lt_of_le_of_ne (peakOf_nonneg _) (Ne.symm hpeak), fun x hx => ?le, ?reached,
    fun i x hx => ?sample, fun i hi => read_store_zero_of_le _ (hlen.trans_le hi)⟩
  case le => exact abs_le_peakOf _ (List.mem_map_of_mem hx)
  case reached =>
    obtain ⟨v, hv, hvp⟩ := exists_abs_eq_peakOf _ hpeak
    obtain ⟨x, hx, rfl⟩ := List.mem_map.1 hv
    exact ⟨x, hx, hvp⟩
  case sample =>
    have hval : (frameValues T s)[i]? = some (ToneSample.eval T x) := by
      rw [frameValues, List.getElem?_map, hx, Option.map_some]
    have hrange := quantise_range T hT s.config.qRound (abs_scaled_le _ (List.mem_of_getElem? hval) hpeak)
    obtain ⟨p, hp, hpq⟩ := exists_getElem?_quantisedFrame T _ hval hrange
    intro v q
    have hq : q = quantise T s.config.qRound v := (congrArg BitVec.toInt (read_store_zero s.mpcm hp)).trans hpq
    rw [hq]
    refine ⟨hrange, fun htrunc => ?_, fun hother => by rw [hother, quantise]⟩
    rw [htrunc, quantise]
    exact ⟨fun h => (truncate_of_nonneg h).2, fun h => (truncate_of_nonpos h).2⟩

end Sys2Proof.Machine
end

section
/-! PROOFS. The correlator's failure and its independence of scale (44_marker_correlator.md, R205, R208), and the
packing of bits (46_payload_codec.md, R245, R246). -/

namespace Sys2Proof.Machine

section Values

variable {K : Type} [Field K] [LinearOrder K] [IsStrictOrderedRing K]

omit [LinearOrder K] [IsStrictOrderedRing K] in
/-- The correlation is empty exactly where the capture is shorter than the template (R203). -/
theorem correlation_eq_nil_iff (x m : List K) : correlation x m = [] ↔ x.length < m.length := by
  rw [← List.length_eq_zero_iff, length_correlation]
  omega

/-- Nothing crosses exactly where no value is positive: a largest value that is positive crosses itself, and one that
is not leaves every value at or below seven tenths of it (R205). -/
theorem firstCrossing_eq_none_iff {corr : List K} (hne : corr ≠ []) :
    firstCrossing corr = none ↔ ∀ c ∈ corr, c ≤ 0 := by
  obtain ⟨M, hM, hle⟩ := exists_largest corr hne
  rw [firstCrossing_eq corr hM hle, List.findIdx?_eq_none_iff]
  simp only [decide_eq_false_iff_not, not_lt]
  constructor
  · intro hbelow c hc
    have hself := hbelow M hM
    exact (hle c hc).trans (by linarith)
  · intro hneg c hc
    linarith [hle c hc, hneg M hM]

omit [LinearOrder K] [IsStrictOrderedRing K] in
/-- A factor on the capture is a factor on every inner product. -/
theorem dot_map_mul (a : K) (x m : List K) : dot (x.map (a * ·)) m = a * dot x m := by
  induction x generalizing m with
  | nil => simp [dot]
  | cons y ys ih =>
    cases m with
    | nil => simp [dot]
    | cons z zs =>
      have htail := ih zs
      simp only [dot] at htail ⊢
      simp only [List.map_cons, List.zipWith_cons_cons, List.sum_cons, htail]
      ring

omit [LinearOrder K] [IsStrictOrderedRing K] in
/-- A factor on the capture is a factor on the correlation. -/
theorem correlation_map_mul (a : K) (x m : List K) :
    correlation (x.map (a * ·)) m = (correlation x m).map (a * ·) := by
  simp [correlation, ← List.map_drop, dot_map_mul]

/-- A positive factor moves no crossing. -/
theorem firstCrossing_map_mul {a : K} (ha : 0 < a) (corr : List K) :
    firstCrossing (corr.map (a * ·)) = firstCrossing corr := by
  rcases eq_or_ne corr [] with rfl | hne
  · rfl
  · obtain ⟨M, hM, hle⟩ := exists_largest corr hne
    have hle' : ∀ c ∈ corr.map (a * ·), c ≤ a * M := by
      intro c' hc'
      obtain ⟨c, hc, rfl⟩ := List.mem_map.1 hc'
      exact mul_le_mul_of_nonneg_left (hle c hc) ha.le
    have hcross : ∀ v, 7 * (a * M) < 10 * (a * v) ↔ 7 * M < 10 * v := fun v => by
      rw [mul_left_comm, mul_left_comm 10, mul_lt_mul_iff_right₀ ha]
    rw [firstCrossing_eq corr hM hle, firstCrossing_eq _ (List.mem_map_of_mem hM) hle', List.findIdx?_map]
    simp only [Function.comp_def, hcross]

end Values

/-- Settles O43: the correlation is empty, or nothing in it crosses. -/
theorem locateFailsExactlyWithoutPositiveCorrelation :
    Obligations.LocateFailsExactlyWithoutPositiveCorrelation := by
  unfold Obligations.LocateFailsExactlyWithoutPositiveCorrelation
  intro K _ _ _ x m
  rw [← correlation_eq_nil_iff, locate]
  rcases eq_or_ne (correlation x m) [] with hnil | hne
  · simp [hnil, firstCrossing]
  · simp [hne, firstCrossing_eq_none_iff hne]

/-- Settles O44: the factor passes through the correlation and moves no crossing. -/
theorem locateIsScaleInvariant : Obligations.LocateIsScaleInvariant := by
  unfold Obligations.LocateIsScaleInvariant
  intro K _ _ _ x m a ha
  rw [locate, locate, correlation_map_mul, firstCrossing_map_mul ha]

/-! ### Bits and bytes -/

/-- Eight bits a byte (R245). -/
theorem length_bitsFromBytes (bytes : List Byte) : (bitsFromBytes bytes).length = 8 * bytes.length := by
  simp [bitsFromBytes, List.length_flatMap, Nat.mul_comm]

/-- Settles O52: the laws of packing. -/
theorem bytesOfBitsInvertsBitsOfBytes : Obligations.BytesOfBitsInvertsBitsOfBytes := by
  unfold Obligations.BytesOfBitsInvertsBitsOfBytes
  exact ⟨bytesFromBits_bitsFromBytes, length_bitsFromBytes, length_bytesFromBits, getElem?_bitsFromBytes,
    getElem?_bytesFromBits⟩

end Sys2Proof.Machine
end

section
/-! PROOFS. The DEM engine's operations (45_demodulator.md, 46_payload_codec.md R252): the faults of a demodulation in
their order, its success, and the pixel formatting. -/

namespace Sys2Proof.Machine

/-! ### The capture's peak -/

theorem foldl_max_natAbs_eq_zero_iff (l : List ℤ) (m : Nat) :
    l.foldl (fun m v => max m v.natAbs) m = 0 ↔ m = 0 ∧ ∀ v ∈ l, v = 0 := by
  induction l generalizing m with
  | nil => simp
  | cons v rest ih => simp [ih, and_assoc]

/-- The peak is 0 exactly where every captured sample is (R217, R218). -/
theorem capturedPeak_eq_zero_iff (s : State) :
    capturedPeak s = 0 ↔ ∀ i, i < s.demNsamp.toNat → s.dpcm.read i = 0#16 := by
  have hzero : ∀ p : Pcm, p.toInt = 0 ↔ p = 0#16 := fun p => by rw [← BitVec.toInt_inj]; rfl
  simp [capturedPeak, foldl_max_natAbs_eq_zero_iff, captured, hzero]

/-! ### A demodulation's faults -/

section Values

variable {K : Type} [Field K] [LinearOrder K] (T : Numeric K) {s : State}

/-- A demodulation as one equation on the state it started from, its checks as the spec writes them (R215 to
R221). -/
theorem demCompleteIn_eq (hop : s.demOp = .demod) :
    demCompleteIn T s =
      if ¬ConfigValid s then faultDem .configInvalid (invalidatePixels s)
      else if ¬s.demNsamp.toNat ≤ s.config.capDpcm then faultDem .capacity (invalidatePixels s)
      else if ∀ i, i < s.demNsamp.toNat → s.dpcm.read i = 0#16 then faultDem .zeroPeak (invalidatePixels s)
      else alignStage T (invalidatePixels s) := by
  simp only [demCompleteIn, hop, demodulateIn_eq, cfgOk_eq_false_iff, capturedPeak_eq_zero_iff, not_le]

/-- A demodulation that passes its first checks goes on to the search for the marker (R220). -/
theorem demCompleteIn_eq_alignStage (hop : s.demOp = .demod) (hcfg : ConfigValid s)
    (hfits : s.demNsamp.toNat ≤ s.config.capDpcm)
    (hsound : ¬∀ i, i < s.demNsamp.toNat → s.dpcm.read i = 0#16) :
    demCompleteIn T s = alignStage T (invalidatePixels s) := by
  rw [demCompleteIn_eq T hop, if_neg (not_not.2 hcfg), if_neg (not_not.2 hfits), if_neg hsound]

/-- Where the marker is not found and the fallback is disabled, a demodulation ends (R221). -/
theorem alignStage_eq_fault (hnone : locate (capture s) (marker T s) = none) (hctrl : s.ctrl.getLsbD 0 = false) :
    alignStage T s = faultDem .markerNotFound (raise .markerNotFound s) := by
  have hfall : s.fallbackEn = false := hctrl
  simp [alignStage, hnone, hfall]

/-- From the marker, or from 0 with the fallback's two flags, a demodulation goes on to its windows (R221, R222). -/
theorem alignStage_eq_detectStage {offset : Nat} {found : Word}
    (hfound : locate (capture s) (marker T s) = some offset ∧ found = 0#32 ∨
      locate (capture s) (marker T s) = none ∧ s.ctrl.getLsbD 0 = true ∧ offset = 0 ∧ found = 0xC0#32) :
    alignStage T s = detectStage T offset (withFlags found s) := by
  rcases hfound with ⟨hsome, rfl⟩ | ⟨hnone, hctrl, rfl, rfl⟩
  · simp [alignStage, hsome, withFlags]
  · have hflags : raise .degraded (raise .markerNotFound s) = withFlags 0xC0#32 s := by
      simp only [raise, withFlags, BitVec.or_assoc]
      rfl
    simp only [alignStage, hnone, State.fallbackEn, hctrl, if_true, hflags]

end Values

/-- The end of a demodulation by a fault, on the fields it writes (R301). -/
theorem faultDem_demod (k : ErrKind) {s : State} (hop : s.demOp = .demod) (w : Word) :
    faultDem k (withFlags w (invalidatePixels s)) = { s with
      demErr := k.code, demNbits := 0#32, demNsym := 0#32, demOffset := 0#32, pixCount := 0#32
      status := (s.status ||| w) &&& ~~~0x2#32 ||| 0x20#32 } := by
  rw [faultDem_frame]
  simp only [withFlags, invalidatePixels, hop, if_true]
  rfl

/-- The same with no flag raised on the way. -/
theorem faultDem_invalidatePixels (k : ErrKind) {s : State} (hop : s.demOp = .demod) :
    faultDem k (invalidatePixels s) = { s with
      demErr := k.code, demNbits := 0#32, demNsym := 0#32, demOffset := 0#32, pixCount := 0#32
      status := s.status &&& ~~~0x2#32 ||| 0x20#32 } := by
  have h := faultDem_demod k hop 0#32
  rwa [BitVec.or_zero, withFlags, BitVec.or_zero] at h

/-- Settles O45: the equation of a demodulation, its checks in order, down to the search for the marker. -/
theorem demodulationFaultsInOrder : Obligations.DemodulationFaultsInOrder := by
  unfold Obligations.DemodulationFaultsInOrder
  intro K _ _ _ T s hb hop faulted fits silent
  have heq := demCompleteIn_eq T hop
  refine ⟨fun hcfg => ?_, fun hcfg hfits => ?_, fun hcfg hfits hsilent => ?_,
    fun hcfg hfits hsound hnone hctrl => ?_⟩
  · exact (heq.trans (if_pos hcfg)).trans (faultDem_invalidatePixels .configInvalid hop)
  · rw [if_neg (not_not.2 hcfg), if_pos hfits] at heq
    exact heq.trans (faultDem_invalidatePixels .capacity hop)
  · rw [if_neg (not_not.2 hcfg), if_neg (not_not.2 hfits), if_pos hsilent] at heq
    exact heq.trans (faultDem_invalidatePixels .zeroPeak hop)
  · have halign := alignStage_eq_fault T (s := invalidatePixels s) hnone hctrl
    exact (demCompleteIn_eq_alignStage T hop hcfg hfits hsound).trans
      (halign.trans (faultDem_demod .markerNotFound hop 0x40#32))

/-! ### From the windows on -/

/-- INCOMPLETE_WINDOW joins the flags raised before, where samples are left over (R223). -/
theorem flagLeftover_withFlags (offset : Nat) (found : Word) (s : State) :
    flagLeftover offset (withFlags found (invalidatePixels s)) =
      withFlags (found ||| (if (s.demNsamp.toNat - 2 * markerLen s - 2 * offset) % sps s = 0 then 0#32 else 0x100#32))
        (invalidatePixels s) := by
  rw [flagLeftover_eq, ← spanOf_eq]
  simp only [withFlags, BitVec.or_assoc]
  rfl

/-- The windows' end, on the state that the demodulation started from (R222 to R230). -/
theorem detectStage_started {K : Type} [Field K] [LinearOrder K] (T : Numeric K) (offset : Nat) (found : Word)
    (s : State) :
    let span := s.demNsamp.toNat - 2 * markerLen s - 2 * offset
    let ended := withFlags (found ||| (if span % sps s = 0 then 0#32 else 0x100#32)) (invalidatePixels s)
    detectStage T offset (withFlags found (invalidatePixels s)) =
      if s.config.capDbyte < span / sps s / 4 then faultDem .capacity ended
      else finishDemod (detectedBytes T offset s) (span / sps s) (span / sps s / 4) offset ended := by
  intro span ended
  have hnwin : windowCount s offset = span / sps s := by rw [windowCount, spanOf_eq]
  have hnbytes : byteCount s offset = span / sps s / 4 := by rw [byteCount_eq, hnwin]
  rw [detectStage_eq, flagLeftover_withFlags, ← hnbytes, ← hnwin]
  rfl

/-- Settles O46: the windows' bytes exceed the capacity, so the operation ends with the flags it has raised. -/
theorem demodulationWithoutRoomFaults : Obligations.DemodulationWithoutRoomFaults := by
  unfold Obligations.DemodulationWithoutRoomFaults
  intro K _ _ _ T s offset found hb hop hcfg hfits hsound hfound span flags hroom
  have hstage := alignStage_eq_detectStage T (s := invalidatePixels s) hfound
  rw [demCompleteIn_eq_alignStage T hop hcfg hfits (by push Not; exact hsound), hstage, detectStage_started,
    if_pos hroom]
  exact faultDem_demod .capacity hop flags

/-- Settles O47: the windows' bytes fit, so the operation is `finishDemod`; its stored cells are the packed codes. -/
theorem demodulationWritesTheDetectedBytes : Obligations.DemodulationWritesTheDetectedBytes := by
  unfold Obligations.DemodulationWritesTheDetectedBytes
  intro K _ _ _ T s offset found hwf hb hop hcfg hfits hsound hfound span nwin flags hroom
  have hstage := alignStage_eq_detectStage T (s := invalidatePixels s) hfound
  have hnwin : windowCount s offset = nwin := by rw [windowCount, spanOf_eq]
  have hlen : (detectedBytes T offset s).length = nwin / 4 := by
    rw [detectedBytes, length_detectedBytes, byteCount_eq, hnwin]
  have hdone : demCompleteIn T s = finishDemod (detectedBytes T offset s) nwin (nwin / 4) offset
      (withFlags flags (invalidatePixels s)) := by
    rw [demCompleteIn_eq_alignStage T hop hcfg hfits (by push Not; exact hsound), hstage, detectStage_started,
      if_neg (not_lt.2 hroom)]
  have hbound := windowCount_le (s := s) offset
  obtain ⟨_, _, ⟨_, hcapDpcm⟩, _⟩ := hwf
  have hoffset : offset ≤ s.demNsamp.toNat := by
    rcases hfound with ⟨hsome, _⟩ | ⟨_, _, rfl, _⟩
    · have hle := locate_le hsome
      rw [length_capture] at hle
      omega
    · exact Nat.zero_le _
  refine ⟨_, hdone, rfl, Nat.mod_eq_of_lt (by omega), Nat.mod_eq_of_lt (by omega), Nat.mod_eq_of_lt (by omega),
    fun j c0 c1 c2 c3 _ h0 h1 h2 h3 => ?_, (length_detectedCodes T offset s).trans hnwin, fun j hj => ?_⟩
  · exact read_store_zero s.dbyte (getElem?_bytes_of_codes _ j c0 c1 c2 c3 h0 h1 h2 h3)
  · exact read_store_zero_of_le s.dbyte (hlen.trans_le hj)

/-- Settles O49: between the markers lie the symbols' samples, a whole number of windows. -/
theorem roundTripKeepsTheLength : Obligations.RoundTripKeepsTheLength := by
  unfold Obligations.RoundTripKeepsTheLength
  intro s hcfg hlen
  obtain ⟨_, _, hsps, _⟩ := hcfg
  have hspan : spanOf s 0 = symbolCount s * sps s := by
    rw [spanOf_eq, hlen, frameLen]
    omega
  have hcount : windowCount s 0 = symbolCount s := by
    rw [windowCount, hspan, Nat.mul_div_cancel _ (show 0 < sps s from hsps)]
  refine ⟨hcount, by rw [hspan, Nat.mul_mod_left], ?_⟩
  rw [byteCount, hcount]
  rfl

/-! ### Pixel formatting -/

/-- DBYTE after the padding: 0 in the padding, the recovered bytes elsewhere (R252). -/
theorem read_padding (m : Memory 8) (nb P a : Nat) :
    (m.store nb (List.replicate (P - nb) 0#8)).read a = if nb ≤ a ∧ a < P then 0#8 else m.read a := by
  rw [read_store, List.length_replicate]
  by_cases h : nb ≤ a ∧ a < P
  · rw [if_pos h, if_pos (by omega)]
    simp
  · rw [if_neg h, if_neg (by omega)]

/-- The padded cells, read in order, are `pixels_from_bits` of the recovered bytes (R248). -/
theorem map_read_padding (m : Memory 8) (nb h w : Nat) :
    (List.range (h * w)).map (m.store nb (List.replicate (h * w - nb) 0#8)).read =
      pixelsFromBits (bitsFromBytes ((List.range nb).map m.read)) h w := by
  rw [pixelsFromBits, bytesFromBits_bitsFromBytes]
  refine List.ext_getElem (by simp; omega) fun i hi _ => ?_
  have hi : i < h * w := by simpa using hi
  simp only [List.getElem_map, List.getElem_range, read_padding, List.getElem_append, List.length_take,
    List.length_map, List.length_range, List.getElem_take, List.getElem_replicate]
  by_cases hnb : i < nb
  · rw [if_neg (by omega), dif_pos (by omega)]
  · rw [if_pos (by omega), dif_neg (by omega)]

/-- Settles O50: the equation of a pixel formatting, with its padding read back. -/
theorem pixelFormattingPadsOrTruncates : Obligations.PixelFormattingPadsOrTruncates := by
  unfold Obligations.PixelFormattingPadsOrTruncates
  intro K _ _ T s hwf hb hop P nb
  have heq : demCompleteIn T s = formatPixels s := by rw [demCompleteIn, hop]
  rw [heq, formatPixels_eq]
  refine ⟨fun hcap => ?fault, fun hcap => ?success⟩
  case fault =>
    have hne : DemOp.pix ≠ .demod := nofun
    rw [if_pos (show s.config.capDbyte < pixelCount s from hcap), faultDem_frame]
    simp only [hop, if_neg hne]
    rfl
  case success =>
    obtain ⟨_, _, _, _, hcapDbyte⟩ := hwf
    refine ⟨_, if_neg (not_lt.2 hcap), rfl, Nat.mod_eq_of_lt (show P < 2 ^ 32 by omega),
      map_read_padding s.dbyte nb _ _, fun a ha => ?_⟩
    exact (read_padding s.dbyte nb P a).trans (if_neg (by omega))

end Sys2Proof.Machine
end

section
/-! PROOFS. The numeric profiles (00_scope.md section 4, 41_tone_synthesizer.md): NUM_IDEAL is lawful and its tones
are bounded; the Hamming window's values. -/

namespace Sys2Proof.Machine

/-! ### NUM_IDEAL -/

theorem ideal_sin1 (q : ℚ) : Numeric.ideal.sin1 q = Real.sin (2 * Real.pi * (q : ℝ)) := rfl

theorem ideal_cos1 (q : ℚ) : Numeric.ideal.cos1 q = Real.cos (2 * Real.pi * (q : ℝ)) := rfl

/-- The rounding of `Numeric.ideal` for Q_ROUND's other value is truncation. -/
theorem ideal_roundOther (v : ℝ) : Numeric.ideal.roundOther v = truncate v := rfl

/-- Settles O57: sine and cosine at 0 and at half a turn, the cosine's period and parity, and truncation's range. -/
theorem idealProfileIsLawful : Obligations.IdealProfileIsLawful where
  sin1_zero := by simp [ideal_sin1]
  cos1_zero := by simp [ideal_cos1]
  cos1_half := by
    have hhalf : 2 * Real.pi * (((1 / 2 : ℚ) : ℚ) : ℝ) = Real.pi := by push_cast; ring
    rw [ideal_cos1, hhalf, Real.cos_pi]
  cos1_mirror q _ _ := by
    have hmirror : 2 * Real.pi * ((1 - q : ℚ) : ℝ) = 2 * Real.pi - 2 * Real.pi * (q : ℝ) := by push_cast; ring
    rw [ideal_cos1, ideal_cos1, hmirror, Real.cos_two_pi_sub]
  round_range v hlow hhigh := by
    rw [ideal_roundOther]
    exact truncate_range (abs_le.2 ⟨hlow, hhigh⟩)
  round_int n _ _ := by rw [ideal_roundOther, truncate_intCast]

theorem abs_ideal_sin1_le (q : ℚ) : |Numeric.ideal.sin1 q| ≤ 1 := Real.abs_sin_le_one _

theorem abs_ideal_cos1_le (q : ℚ) : |Numeric.ideal.cos1 q| ≤ 1 := Real.abs_cos_le_one _

/-- Under NUM_IDEAL a window is at most 1 in magnitude: a Hamming window lies between 2/25 and 1 (R142, R143). -/
theorem abs_ideal_windowValue_le (win : Window) (N n : Nat) : |windowValue Numeric.ideal win N n| ≤ 1 := by
  cases win with
  | rect => simp [windowValue]
  | hamming =>
    rw [windowValue, hamming]
    split_ifs with hN
    · simp
    · obtain ⟨hlow, hhigh⟩ := abs_le.1 (abs_ideal_cos1_le ((n : ℚ) / ((N : ℚ) - 1)))
      exact abs_le.2 ⟨by linarith, by linarith⟩

/-- Under NUM_IDEAL a carrier is at most 1 in magnitude (R144). -/
theorem abs_ideal_carrierFactor_le (fc rate n : Nat) : |carrierFactor Numeric.ideal fc rate n| ≤ 1 := by
  rw [carrierFactor]
  split_ifs
  · simp
  · exact abs_ideal_cos1_le _

/-- Under NUM_IDEAL no sample exceeds 1 in magnitude (R148). -/
theorem abs_ideal_eval_le (x : ToneSample) : |ToneSample.eval Numeric.ideal x| ≤ 1 := by
  rw [ToneSample.eval, abs_mul, abs_mul]
  exact mul_le_one₀ (mul_le_one₀ (abs_ideal_sin1_le _) (abs_nonneg _) (abs_ideal_windowValue_le ..))
    (abs_nonneg _) (abs_ideal_carrierFactor_le ..)

/-- A sample whose sine is 0 is 0, whatever its window and carrier (R140). -/
theorem eval_eq_zero_of_sin1 {K : Type} [Field K] {T : Numeric K} {x : ToneSample}
    (h : T.sin1 (((x.freq * x.n : Nat) : ℚ) / (x.rate : ℚ)) = 0) : ToneSample.eval T x = 0 := by
  rw [ToneSample.eval, h, zero_mul, zero_mul]

/-- Half the sample rate makes whole half turns, where the sine is 0 (R148). -/
theorem ideal_sin1_half_rate {f : Nat} (hf : 1 ≤ f) (n : Nat) :
    Numeric.ideal.sin1 (((f * n : Nat) : ℚ) / ((2 * f : Nat) : ℚ)) = 0 := by
  have hf : (f : ℝ) ≠ 0 := by positivity
  have harg : 2 * Real.pi * ((((f * n : Nat) : ℚ) / ((2 * f : Nat) : ℚ) : ℚ) : ℝ) = n * Real.pi := by
    push_cast
    field_simp
  rw [ideal_sin1, harg, Real.sin_nat_mul_pi]

/-- Settles O56: each factor is bounded, and the sine is 0 at time 0 and at half the sample rate. -/
theorem idealTonesAreBounded : Obligations.IdealTonesAreBounded := by
  unfold Obligations.IdealTonesAreBounded
  refine ⟨fun x _ => abs_ideal_eval_le x, fun f N win fc rate hN => ?start, fun f N win fc hf v hv => ?silent⟩
  case start =>
    have hfirst : (toneSamples f N win fc rate)[0]? =
        some { freq := f, n := 0, len := N, win := win, carrier := fc, rate := rate } := by
      rw [toneSamples, List.getElem?_map, List.getElem?_range hN]
      rfl
    rw [tone, List.getElem?_map, hfirst, Option.map_some, eval_eq_zero_of_sin1]
    simpa using idealProfileIsLawful.sin1_zero
  case silent =>
    obtain ⟨x, hx, rfl⟩ := List.mem_map.1 hv
    obtain ⟨n, _, rfl⟩ := List.mem_map.1 hx
    exact eval_eq_zero_of_sin1 (ideal_sin1_half_rate hf n)

/-! ### The Hamming window -/

section Values

variable {K : Type} [Field K] [LinearOrder K] {T : Numeric K}

omit [LinearOrder K] in
/-- The window's formula where the segment has more than one sample (R143). -/
theorem hamming_eq (T : Numeric K) {N : Nat} (hN : 2 ≤ N) (n : Nat) :
    hamming T N n = 27 / 50 - 23 / 50 * T.cos1 ((n : ℚ) / ((N - 1 : Nat) : ℚ)) := by
  rw [hamming, if_neg (by omega), Nat.cast_sub (by omega), Nat.cast_one]

/-- The window is symmetric: its argument is mirrored on a turn (R143). -/
theorem hamming_mirror (hT : T.Lawful) {N n : Nat} (hN : 2 ≤ N) (hn : n < N) :
    hamming T N (N - 1 - n) = hamming T N n := by
  have hpos : (0 : ℚ) < ((N - 1 : Nat) : ℚ) := by exact_mod_cast (by omega : 0 < N - 1)
  have hle : (n : ℚ) ≤ ((N - 1 : Nat) : ℚ) := by exact_mod_cast (by omega : n ≤ N - 1)
  have harg : (((N - 1 - n : Nat) : ℚ)) / ((N - 1 : Nat) : ℚ) = 1 - (n : ℚ) / ((N - 1 : Nat) : ℚ) := by
    rw [Nat.cast_sub (by omega : n ≤ N - 1), sub_div, div_self hpos.ne']
  rw [hamming_eq T hN, hamming_eq T hN, harg,
    hT.cos1_mirror _ (div_nonneg n.cast_nonneg hpos.le) ((div_le_one hpos).2 hle)]

variable [IsStrictOrderedRing K]

/-- The window starts at 2/25 (R143). -/
theorem hamming_zero (hT : T.Lawful) {N : Nat} (hN : 2 ≤ N) : hamming T N 0 = 2 / 25 := by
  rw [hamming_eq T hN, Nat.cast_zero, zero_div, hT.cos1_zero]
  norm_num

/-- The centre of an odd number of samples is 1: half a turn (R143). -/
theorem hamming_centre (hT : T.Lawful) {N : Nat} (hN : N % 2 = 1) : hamming T N ((N - 1) / 2) = 1 := by
  obtain ⟨k, rfl⟩ : ∃ k, N = 2 * k + 1 := ⟨N / 2, by omega⟩
  rcases Nat.eq_zero_or_pos k with rfl | hk
  · rfl
  · have hk' : (k : ℚ) ≠ 0 := by positivity
    have harg : (((2 * k + 1 - 1) / 2 : Nat) : ℚ) / ((2 * k + 1 - 1 : Nat) : ℚ) = 1 / 2 := by
      rw [Nat.add_sub_cancel, Nat.mul_div_cancel_left k (by decide)]
      push_cast
      field_simp
    rw [hamming_eq T (by omega), harg, hT.cos1_half]
    norm_num

end Values

/-- Settles O59: the formula, and the profile's laws at the arguments that it takes; the hardware's profile carries
its laws. -/
theorem hammingWindowHasItsValues : Obligations.HammingWindowHasItsValues := by
  unfold Obligations.HammingWindowHasItsValues
  refine ⟨fun K _ _ _ T hT => ⟨rfl, fun N n hN hn => ⟨hamming_eq T hN n, (hamming_mirror hT hN hn).symm⟩,
    fun N hN => ⟨hamming_zero hT hN, ?last⟩, fun N hN => hamming_centre hT hN⟩, Config.num.lawful⟩
  case last =>
    rw [← hamming_zero hT hN, ← hamming_mirror hT hN (by omega : 0 < N), Nat.sub_zero]

end Sys2Proof.Machine
end
